-- ==== Sys2Proof/Word.lean ====
section
/-! DEFINITION. The two word types of the engine: 32-bit command words and octet-memory bytes. -/

namespace Sys2Proof

/-- A command word, bit 0 the least significant (00_scope.md R10, 30_encoding.md R70). -/
abbrev Word := BitVec 32

/-- A byte of octet memory (10_state.md R37). -/
abbrev Byte := BitVec 8

end Sys2Proof
end

