-- ==== Sys2Proof/Config.lean ====
section
/-! DEFINITION. The open parameters of an implementation, the constants the document fixes, and the
values the spec leaves free (opaque: nothing in Lean can evaluate one or prove a value of it). -/

namespace Sys2Proof

/-- The open parameters of 00_scope.md R7 that a model takes as arguments.  They are carried,
unchanged by every step, in the state, so that a claim about every state is a claim about every
conforming implementation (DESIGN CHOICE, log 1). -/
structure Params where
  /-- `CAP_BITS`: the largest `maglen` a register may hold; `none` is ∞. -/
  capBits : Option Nat
  /-- `CM_SIZE`: cells of command memory, 1 .. 65535. -/
  cmSize : Nat
  /-- `OM_SIZE`: bytes of octet memory, 1 .. 65535. -/
  omSize : Nat
  deriving DecidableEq, Repr

/-- The ranges of 00_scope.md R7. -/
def Params.wf (p : Params) : Bool :=
  (p.capBits != some 0) && decide (1 ≤ p.cmSize) && decide (p.cmSize ≤ 65535)
    && decide (1 ≤ p.omSize) && decide (p.omSize ≤ 65535)

/-- The recommended defaults of 00_scope.md R7. -/
def Params.default : Params := ⟨none, 1024, 4096⟩

namespace Config

/-- `MR_ROUNDS` (00_scope.md R6). -/
def mrRounds : Nat := 64

/-- `SP`, the product of `SMALL_PRIMES` = 3·5·7·11·13·17·19 (00_scope.md R6). -/
def smallPrimeProduct : Nat := 4849845

/-- `E_PUB` (00_scope.md R6). -/
def pubExponent : Nat := 65537

/-- How many passes of a generator's retry loop one step of the model runs before it hands back a
state in which the command is still in progress (DESIGN CHOICE, log 4: the spec bounds the loop by
nothing, 44_prime.md R175). -/
def genAttempts : Nat := 4096

/-- FREE VALUE: cell `i` of command memory as launch `l` left it (10_state.md R36, R41; log 2). -/
opaque cmLaunch : Nat → Nat → Word

/-- FREE VALUE: byte `a` of octet memory as launch `l` left it (10_state.md R37, R41; log 2). -/
opaque omLaunch : Nat → Nat → Byte

/-- FREE VALUE: byte number `n` of the random source (00_scope.md R16; log 3). -/
opaque rngByte : Nat → Byte

/-- FREE VALUE: the word the `n`-th unspecified host read of command memory returns
(20_memory.md R61; log 8). -/
opaque hostReadWord : Nat → Word

/-- FREE VALUE: the byte the `n`-th unspecified host read of octet memory returns
(20_memory.md R62; log 8). -/
opaque hostReadByte : Nat → Byte

end Config
end Sys2Proof
end

