-- ==== Sys2Proof/Syntax.lean ====
section
/-! DEFINITION. The commands as syntax: one constructor per row of spec/opcode_table.json
(30_encoding.md R75, R79), with the register, CSR and immediate operands they carry. -/

namespace Sys2Proof

/-- A big-integer register number, `b0` to `b15` (10_state.md R21). -/
abbrev XReg := Fin 16

/-- A key register number, `k0` to `k8` (10_state.md R33). -/
abbrev KReg := Fin 9

/-- The 16-bit immediate, always read unsigned (30_encoding.md R74). -/
abbrev Imm := BitVec 16

/-- The assigned control and status registers, numbers 0 to 10 (10_state.md R26). -/
inductive Csr where
  | status | flags | ptr | len | ekind | epc | kform | ie | capbits | omsize | cmsize
  deriving DecidableEq, Repr

/-- A legal command.  The comment after each constructor is its assembly operand list. -/
inductive Instr where
  | halt                                   -- HALT
  | nop                                    -- NOP
  | br (t : Imm)                           -- BR target
  | bt (t : Imm)                           -- BT target
  | bf (t : Imm)                           -- BF target
  | beq (t : Imm)                          -- BEQ target
  | bne (t : Imm)                          -- BNE target
  | blt (t : Imm)                          -- BLT target
  | bge (t : Imm)                          -- BGE target
  | csrr (rd : XReg) (c : Csr)             -- CSRR bd, CSR
  | csrw (c : Csr) (ra : XReg)             -- CSRW CSR, ba
  | csrwi (c : Csr) (imm : Imm)            -- CSRWI CSR, imm
  | li (rd : XReg) (imm : Imm)             -- LI bd, imm
  | mov (rd ra : XReg)                     -- MOV bd, ba
  | add (rd ra rb : XReg)                  -- ADD bd, ba, bb
  | sub (rd ra rb : XReg)                  -- SUB bd, ba, bb
  | mul (rd ra rb : XReg)                  -- MUL bd, ba, bb
  | div (rd ra rb : XReg)                  -- DIV bd, ba, bb
  | mod (rd ra rb : XReg)                  -- MOD bd, ba, bb
  | gcd (rd ra rb : XReg)                  -- GCD bd, ba, bb
  | pow (rd ra : XReg) (imm : Imm)         -- POW bd, ba, imm
  | cmp (ra rb : XReg)                     -- CMP ba, bb
  | modpow (rd ra rb rc : XReg)            -- MODPOW bd, ba, bb, bc
  | modinv (rd ra rb : XReg)               -- MODINV bd, ba, bb
  | montmul (rd ra rb rc : XReg)           -- MONTMUL bd, ba, bb, bc
  | bmu (rd ra : XReg)                     -- BMU bd, ba
  | bred (rd ra rb : XReg)                 -- BRED bd, ba, bb
  | shl (rd ra : XReg) (imm : Imm)         -- SHL bd, ba, imm
  | shr (rd ra : XReg) (imm : Imm)         -- SHR bd, ba, imm
  | and (rd ra rb : XReg)                  -- AND bd, ba, bb
  | or (rd ra rb : XReg)                   -- OR bd, ba, bb
  | xor (rd ra rb : XReg)                  -- XOR bd, ba, bb
  | not (rd ra : XReg)                     -- NOT bd, ba
  | testbit (ra : XReg) (imm : Imm)        -- TESTBIT ba, imm
  | setbit (rd ra : XReg) (imm : Imm)      -- SETBIT bd, ba, imm
  | bitlen (rd ra : XReg)                  -- BITLEN bd, ba
  | enc (ra : XReg)                        -- ENC ba
  | dec (rd : XReg)                        -- DEC bd
  | i2osp (ra : XReg)                      -- I2OSP ba
  | os2ip (rd : XReg)                      -- OS2IP bd
  | ptest (ra : XReg) (imm : Imm)          -- PTEST ba, imm
  | pgen (rd : XReg) (imm : Imm)           -- PGEN bd, imm
  | pgens (rd : XReg) (imm : Imm)          -- PGENS bd, imm
  | kput (j : KReg) (ra : XReg)            -- KPUT kj, ba
  | kget (rd : XReg) (j : KReg)            -- KGET bd, kj
  | rsaep (rd ra : XReg)                   -- RSAEP bd, ba
  | rsavp1 (rd ra : XReg)                  -- RSAVP1 bd, ba
  | rsadp (rd ra : XReg)                   -- RSADP bd, ba
  | rsasp1 (rd ra : XReg)                  -- RSASP1 bd, ba
  | keygen (imm : Imm)                     -- KEYGEN imm
  | keygenc (imm : Imm)                    -- KEYGENC imm
  deriving DecidableEq, Repr

/-- Pseudo-instruction `SETPTR imm` (30_encoding.md R82). -/
abbrev Instr.setptr (imm : Imm) : Instr := .csrwi .ptr imm

/-- Pseudo-instruction `SETLEN imm` (30_encoding.md R82). -/
abbrev Instr.setlen (imm : Imm) : Instr := .csrwi .len imm

/-- Pseudo-instruction `SETKFORM imm` (30_encoding.md R82). -/
abbrev Instr.setkform (imm : Imm) : Instr := .csrwi .kform imm

/-- Pseudo-instruction `CLRFLAGS` (30_encoding.md R82). -/
abbrev Instr.clrflags : Instr := .csrwi .flags 0

end Sys2Proof
end

