-- ==== Sys2Proof/WellFormed.lean ====
section
/-! DEFINITION. Which terms of `Instr` are legal commands.  Every bound that is a plain fact about
one field (register numbers, the 11 CSR numbers, key numbers, 16-bit immediates) is in the field's
type; what is left is the access rule of the CSR writes (30_encoding.md R80). -/

namespace Sys2Proof

/-- The CSRs a command may write: `FLAGS`, `PTR`, `LEN`, `KFORM`, `IE` (10_state.md R26 column
"Cmd", 30_encoding.md R80). -/
def Csr.cmdWritable : Csr → Bool
  | .flags => true
  | .ptr => true
  | .len => true
  | .kform => true
  | .ie => true
  | .status => false
  | .ekind => false
  | .epc => false
  | .capbits => false
  | .omsize => false
  | .cmsize => false

/-- A term is a legal command iff its CSR write, if it is one, names a command-writable register. -/
def Instr.wf : Instr → Bool
  | .csrw c _ => c.cmdWritable
  | .csrwi c _ => c.cmdWritable
  | .halt | .nop | .br _ | .bt _ | .bf _ | .beq _ | .bne _ | .blt _ | .bge _ | .csrr _ _ => true
  | .li _ _ | .mov _ _ | .add _ _ _ | .sub _ _ _ | .mul _ _ _ | .div _ _ _ | .mod _ _ _ => true
  | .gcd _ _ _ | .pow _ _ _ | .cmp _ _ => true
  | .modpow _ _ _ _ | .modinv _ _ _ | .montmul _ _ _ _ | .bmu _ _ | .bred _ _ _ => true
  | .shl _ _ _ | .shr _ _ _ | .and _ _ _ | .or _ _ _ | .xor _ _ _ | .not _ _ => true
  | .testbit _ _ | .setbit _ _ _ | .bitlen _ _ => true
  | .enc _ | .dec _ | .i2osp _ | .os2ip _ => true
  | .ptest _ _ | .pgen _ _ | .pgens _ _ => true
  | .kput _ _ | .kget _ _ | .rsaep _ _ | .rsavp1 _ _ | .rsadp _ _ | .rsasp1 _ _ => true
  | .keygen _ | .keygenc _ => true

end Sys2Proof
end

