-- ==== Sys2Proof/Decode.lean ====
section
/-! DEFINITION. The decoder of 30_encoding.md R78, total on words and on byte strings, rejecting by
name; then the encoder, written from the formats and opcode map of 30_encoding.md R71 to R75; then
the machine-readable opcode table with its masks. -/

namespace Sys2Proof

/-- Why a word is no legal command (30_encoding.md R76, R77): each is `illegal` in R78, and the engine
raises `IllegalCommand` for it. -/
inductive Reject where
  /-- `op` is not in the table of R75. -/
  | unassignedOpcode
  /-- A field the command does not use is not 0 (R76). -/
  | unusedFieldNotZero
  /-- A condition code, CSR number or key index is out of range (R79, R80). -/
  | numberFieldOutOfRange
  /-- A byte string shorter than one word (only on the byte view of R55). -/
  | tooFewBytes
  deriving DecidableEq, Repr

/-- `w[hi:lo]` of 00_scope.md R10: the unsigned integer made of bits `hi` down to `lo`. -/
def field (w : Word) (hi lo : Nat) : Nat := w.toNat / 2 ^ lo % 2 ^ (hi + 1 - lo)

/-- The opcode field, 30_encoding.md R75. -/
def opF (w : Word) : Nat := field w 31 24
/-- `rd` as a number, 30_encoding.md R72. -/
def rdF (w : Word) : Nat := field w 23 20
/-- `ra` as a number, 30_encoding.md R72. -/
def raF (w : Word) : Nat := field w 19 16
/-- `rb` as a number, 30_encoding.md R72. -/
def rbF (w : Word) : Nat := field w 15 12
/-- `rc` as a number, 30_encoding.md R72. -/
def rcF (w : Word) : Nat := field w 11 8
/-- The low byte that format R requires to be 0, 30_encoding.md R72. -/
def loF (w : Word) : Nat := field w 7 0
/-- `imm16` as a number, 30_encoding.md R73. -/
def immF (w : Word) : Nat := field w 15 0

/-- A 4-bit field as a register number. -/
def xreg (n : Nat) : XReg := Fin.ofNat 16 n

/-- The immediate operand, 30_encoding.md R74. -/
def immOf (w : Word) : Imm := BitVec.ofNat 16 (immF w)

/-- The CSR numbers of 10_state.md R26. -/
def Csr.number : Csr → Nat
  | .status => 0
  | .flags => 1
  | .ptr => 2
  | .len => 3
  | .ekind => 4
  | .epc => 5
  | .kform => 6
  | .ie => 7
  | .capbits => 8
  | .omsize => 9
  | .cmsize => 10

/-- The CSR a number names; 11 and above name none (10_state.md R26). -/
def Csr.ofNumber? (n : Nat) : Option Csr :=
  match n with
  | 0 => some .status
  | 1 => some .flags
  | 2 => some .ptr
  | 3 => some .len
  | 4 => some .ekind
  | 5 => some .epc
  | 6 => some .kform
  | 7 => some .ie
  | 8 => some .capbits
  | 9 => some .omsize
  | 10 => some .cmsize
  | _ => none

/-- The command `i`, if every unused field (listed in `fs`) is 0 (30_encoding.md R76). -/
def unused (fs : List Nat) (r : Except Reject Instr) : Except Reject Instr :=
  if fs.all (· == 0) then r else .error .unusedFieldNotZero

/-- The seven branches of condition code `cc`, 30_encoding.md R79. -/
def branchOf (cc : Nat) (t : Imm) : Except Reject Instr :=
  match cc with
  | 0 => .ok (.br t)
  | 1 => .ok (.bt t)
  | 2 => .ok (.bf t)
  | 3 => .ok (.beq t)
  | 4 => .ok (.bne t)
  | 5 => .ok (.blt t)
  | 6 => .ok (.bge t)
  | _ => .error .numberFieldOutOfRange

/-- The number field of `CSRR`: 0 .. 10 (30_encoding.md R80). -/
def csrOf (n : Nat) (f : Csr → Instr) : Except Reject Instr :=
  match Csr.ofNumber? n with
  | some c => .ok (f c)
  | none => .error .numberFieldOutOfRange

/-- The number field of `CSRW` and `CSRWI`: a command-writable CSR (30_encoding.md R80). -/
def writableCsrOf (n : Nat) (f : Csr → Instr) : Except Reject Instr :=
  match Csr.ofNumber? n with
  | some c => if c.cmdWritable then .ok (f c) else .error .numberFieldOutOfRange
  | none => .error .numberFieldOutOfRange

/-- The number field of `KPUT` and `KGET`: 0 .. 8 (30_encoding.md R80). -/
def kregOf (n : Nat) (f : KReg → Instr) : Except Reject Instr :=
  if h : n < 9 then .ok (f ⟨n, h⟩) else .error .numberFieldOutOfRange

/-- `decode` of 30_encoding.md R78, with `illegal` split by reason. -/
def decode (w : Word) : Except Reject Instr :=
  let rd := xreg (rdF w)
  let ra := xreg (raF w)
  let rb := xreg (rbF w)
  let rc := xreg (rcF w)
  let imm := immOf w
  match opF w with
  | 0x01 => unused [field w 23 0] (.ok .halt)
  | 0x02 => unused [field w 23 0] (.ok .nop)
  | 0x03 => unused [raF w] (branchOf (rdF w) imm)
  | 0x04 => unused [raF w] (csrOf (immF w) (.csrr rd))
  | 0x05 => unused [rdF w] (writableCsrOf (immF w) (.csrw · ra))
  | 0x06 => unused [raF w] (writableCsrOf (rdF w) (.csrwi · imm))
  | 0x10 => unused [raF w] (.ok (.li rd imm))
  | 0x11 => unused [rbF w, rcF w, loF w] (.ok (.mov rd ra))
  | 0x12 => unused [rcF w, loF w] (.ok (.add rd ra rb))
  | 0x13 => unused [rcF w, loF w] (.ok (.sub rd ra rb))
  | 0x14 => unused [rcF w, loF w] (.ok (.mul rd ra rb))
  | 0x15 => unused [rcF w, loF w] (.ok (.div rd ra rb))
  | 0x16 => unused [rcF w, loF w] (.ok (.mod rd ra rb))
  | 0x17 => unused [rcF w, loF w] (.ok (.gcd rd ra rb))
  | 0x18 => .ok (.pow rd ra imm)
  | 0x19 => unused [rdF w, rcF w, loF w] (.ok (.cmp ra rb))
  | 0x20 => unused [loF w] (.ok (.modpow rd ra rb rc))
  | 0x21 => unused [rcF w, loF w] (.ok (.modinv rd ra rb))
  | 0x22 => unused [loF w] (.ok (.montmul rd ra rb rc))
  | 0x23 => unused [rbF w, rcF w, loF w] (.ok (.bmu rd ra))
  | 0x24 => unused [rcF w, loF w] (.ok (.bred rd ra rb))
  | 0x30 => .ok (.shl rd ra imm)
  | 0x31 => .ok (.shr rd ra imm)
  | 0x32 => unused [rcF w, loF w] (.ok (.and rd ra rb))
  | 0x33 => unused [rcF w, loF w] (.ok (.or rd ra rb))
  | 0x34 => unused [rcF w, loF w] (.ok (.xor rd ra rb))
  | 0x35 => unused [rbF w, rcF w, loF w] (.ok (.not rd ra))
  | 0x36 => unused [rdF w] (.ok (.testbit ra imm))
  | 0x37 => .ok (.setbit rd ra imm)
  | 0x38 => unused [rbF w, rcF w, loF w] (.ok (.bitlen rd ra))
  | 0x40 => unused [rdF w, rbF w, rcF w, loF w] (.ok (.enc ra))
  | 0x41 => unused [raF w, rbF w, rcF w, loF w] (.ok (.dec rd))
  | 0x42 => unused [rdF w, rbF w, rcF w, loF w] (.ok (.i2osp ra))
  | 0x43 => unused [raF w, rbF w, rcF w, loF w] (.ok (.os2ip rd))
  | 0x50 => unused [rdF w] (.ok (.ptest ra imm))
  | 0x51 => unused [raF w] (.ok (.pgen rd imm))
  | 0x52 => unused [raF w] (.ok (.pgens rd imm))
  | 0x60 => unused [rdF w] (kregOf (immF w) (.kput · ra))
  | 0x61 => unused [raF w] (kregOf (immF w) (.kget rd))
  | 0x62 => unused [rbF w, rcF w, loF w] (.ok (.rsaep rd ra))
  | 0x63 => unused [rbF w, rcF w, loF w] (.ok (.rsavp1 rd ra))
  | 0x64 => unused [rbF w, rcF w, loF w] (.ok (.rsadp rd ra))
  | 0x65 => unused [rbF w, rcF w, loF w] (.ok (.rsasp1 rd ra))
  | 0x66 => unused [rdF w, raF w] (.ok (.keygen imm))
  | 0x67 => unused [rdF w, raF w] (.ok (.keygenc imm))
  | _ => .error .unassignedOpcode

/-- The word of a big-endian group of four bytes, opcode first (20_memory.md R55: this is the byte
view of a platform bus only, log 20). -/
def wordOfBytes (b0 b1 b2 b3 : Byte) : Word :=
  BitVec.ofNat 32 (b0.toNat * 2 ^ 24 + b1.toNat * 2 ^ 16 + b2.toNat * 2 ^ 8 + b3.toNat)

/-- The four bytes of a word on a byte bus, 20_memory.md R55. -/
def bytesOfWord (w : Word) : List Byte :=
  [BitVec.ofNat 8 (field w 31 24), BitVec.ofNat 8 (field w 23 16), BitVec.ofNat 8 (field w 15 8),
    BitVec.ofNat 8 (field w 7 0)]

/-- Decode the first command of a byte string and return the rest (20_memory.md R55). -/
def decodeBytes : List Byte → Except Reject (Instr × List Byte)
  | b0 :: b1 :: b2 :: b3 :: rest => (decode (wordOfBytes b0 b1 b2 b3)).map (·, rest)
  | [] | [_] | [_, _] | [_, _, _] => .error .tooFewBytes

/-- The decoder on an opcode-table word: `nbits` bits, one 32-bit cell (30_encoding.md R70). -/
def decodeTableWord (nbits w : Nat) : Option Instr :=
  if nbits ≤ 32 ∧ w < 2 ^ 32 then (decode (BitVec.ofNat 32 w)).toOption else none

/-- A format Z word (30_encoding.md R71). -/
def wordZ (op : Nat) : Word := BitVec.ofNat 32 (op * 2 ^ 24)

/-- A format R word (30_encoding.md R72). -/
def wordR (op rd ra rb rc : Nat) : Word :=
  BitVec.ofNat 32 (op * 2 ^ 24 + rd * 2 ^ 20 + ra * 2 ^ 16 + rb * 2 ^ 12 + rc * 2 ^ 8)

/-- A format I word (30_encoding.md R73). -/
def wordI (op rd ra imm : Nat) : Word :=
  BitVec.ofNat 32 (op * 2 ^ 24 + rd * 2 ^ 20 + ra * 2 ^ 16 + imm)

/-- The word of a command (30_encoding.md R75; the CSR and key numbers of R80 and the condition codes
of R79 stand where R73 puts them). -/
def encode : Instr → Word
  | .halt => wordZ 0x01
  | .nop => wordZ 0x02
  | .br t => wordI 0x03 0 0 t.toNat
  | .bt t => wordI 0x03 1 0 t.toNat
  | .bf t => wordI 0x03 2 0 t.toNat
  | .beq t => wordI 0x03 3 0 t.toNat
  | .bne t => wordI 0x03 4 0 t.toNat
  | .blt t => wordI 0x03 5 0 t.toNat
  | .bge t => wordI 0x03 6 0 t.toNat
  | .csrr rd c => wordI 0x04 rd 0 c.number
  | .csrw c ra => wordI 0x05 0 ra c.number
  | .csrwi c imm => wordI 0x06 c.number 0 imm.toNat
  | .li rd imm => wordI 0x10 rd 0 imm.toNat
  | .mov rd ra => wordR 0x11 rd ra 0 0
  | .add rd ra rb => wordR 0x12 rd ra rb 0
  | .sub rd ra rb => wordR 0x13 rd ra rb 0
  | .mul rd ra rb => wordR 0x14 rd ra rb 0
  | .div rd ra rb => wordR 0x15 rd ra rb 0
  | .mod rd ra rb => wordR 0x16 rd ra rb 0
  | .gcd rd ra rb => wordR 0x17 rd ra rb 0
  | .pow rd ra imm => wordI 0x18 rd ra imm.toNat
  | .cmp ra rb => wordR 0x19 0 ra rb 0
  | .modpow rd ra rb rc => wordR 0x20 rd ra rb rc
  | .modinv rd ra rb => wordR 0x21 rd ra rb 0
  | .montmul rd ra rb rc => wordR 0x22 rd ra rb rc
  | .bmu rd ra => wordR 0x23 rd ra 0 0
  | .bred rd ra rb => wordR 0x24 rd ra rb 0
  | .shl rd ra imm => wordI 0x30 rd ra imm.toNat
  | .shr rd ra imm => wordI 0x31 rd ra imm.toNat
  | .and rd ra rb => wordR 0x32 rd ra rb 0
  | .or rd ra rb => wordR 0x33 rd ra rb 0
  | .xor rd ra rb => wordR 0x34 rd ra rb 0
  | .not rd ra => wordR 0x35 rd ra 0 0
  | .testbit ra imm => wordI 0x36 0 ra imm.toNat
  | .setbit rd ra imm => wordI 0x37 rd ra imm.toNat
  | .bitlen rd ra => wordR 0x38 rd ra 0 0
  | .enc ra => wordR 0x40 0 ra 0 0
  | .dec rd => wordR 0x41 rd 0 0 0
  | .i2osp ra => wordR 0x42 0 ra 0 0
  | .os2ip rd => wordR 0x43 rd 0 0 0
  | .ptest ra imm => wordI 0x50 0 ra imm.toNat
  | .pgen rd imm => wordI 0x51 rd 0 imm.toNat
  | .pgens rd imm => wordI 0x52 rd 0 imm.toNat
  | .kput j ra => wordI 0x60 0 ra j
  | .kget rd j => wordI 0x61 rd 0 j
  | .rsaep rd ra => wordR 0x62 rd ra 0 0
  | .rsavp1 rd ra => wordR 0x63 rd ra 0 0
  | .rsadp rd ra => wordR 0x64 rd ra 0 0
  | .rsasp1 rd ra => wordR 0x65 rd ra 0 0
  | .keygen imm => wordI 0x66 0 0 imm.toNat
  | .keygenc imm => wordI 0x67 0 0 imm.toNat

/-- The mnemonic of a command, as the opcode table spells it (30_encoding.md R75, R79). -/
def Instr.mnemonic : Instr → String
  | .halt => "HALT"
  | .nop => "NOP"
  | .br _ => "BR"
  | .bt _ => "BT"
  | .bf _ => "BF"
  | .beq _ => "BEQ"
  | .bne _ => "BNE"
  | .blt _ => "BLT"
  | .bge _ => "BGE"
  | .csrr _ _ => "CSRR"
  | .csrw _ _ => "CSRW"
  | .csrwi _ _ => "CSRWI"
  | .li _ _ => "LI"
  | .mov _ _ => "MOV"
  | .add _ _ _ => "ADD"
  | .sub _ _ _ => "SUB"
  | .mul _ _ _ => "MUL"
  | .div _ _ _ => "DIV"
  | .mod _ _ _ => "MOD"
  | .gcd _ _ _ => "GCD"
  | .pow _ _ _ => "POW"
  | .cmp _ _ => "CMP"
  | .modpow _ _ _ _ => "MODPOW"
  | .modinv _ _ _ => "MODINV"
  | .montmul _ _ _ _ => "MONTMUL"
  | .bmu _ _ => "BMU"
  | .bred _ _ _ => "BRED"
  | .shl _ _ _ => "SHL"
  | .shr _ _ _ => "SHR"
  | .and _ _ _ => "AND"
  | .or _ _ _ => "OR"
  | .xor _ _ _ => "XOR"
  | .not _ _ => "NOT"
  | .testbit _ _ => "TESTBIT"
  | .setbit _ _ _ => "SETBIT"
  | .bitlen _ _ => "BITLEN"
  | .enc _ => "ENC"
  | .dec _ => "DEC"
  | .i2osp _ => "I2OSP"
  | .os2ip _ => "OS2IP"
  | .ptest _ _ => "PTEST"
  | .pgen _ _ => "PGEN"
  | .pgens _ _ => "PGENS"
  | .kput _ _ => "KPUT"
  | .kget _ _ => "KGET"
  | .rsaep _ _ => "RSAEP"
  | .rsavp1 _ _ => "RSAVP1"
  | .rsadp _ _ => "RSADP"
  | .rsasp1 _ _ => "RSASP1"
  | .keygen _ => "KEYGEN"
  | .keygenc _ => "KEYGENC"

/-- A condition on the number fields of an opcode-table row (30_encoding.md R78: `imm16 <= N`,
`imm16 in {..}`, `rd in {..}`). -/
inductive RowConstraint where
  | none
  | immLe (n : Nat)
  | immIn (ns : List Nat)
  | rdIn (ns : List Nat)
  deriving DecidableEq, Repr

/-- A row of the machine-readable opcode table (30_encoding.md R78). -/
structure OpcodeRow where
  mnemonic : String
  pattern : Word
  mask : Word
  constraint : RowConstraint
  deriving DecidableEq, Repr

/-- A constraint holds of a word. -/
def RowConstraint.holds (c : RowConstraint) (w : Word) : Bool :=
  match c with
  | .none => true
  | .immLe n => decide (immF w ≤ n)
  | .immIn ns => ns.contains (immF w)
  | .rdIn ns => ns.contains (rdF w)

/-- A row matches iff `(w and mask) = match` and the row's constraints hold (30_encoding.md R78). -/
def OpcodeRow.hits (r : OpcodeRow) (w : Word) : Bool :=
  (w &&& r.mask == r.pattern) && r.constraint.holds w

/-- The control rows of the opcode table. -/
def controlRows : List OpcodeRow :=
  [⟨"HALT", 0x01000000, 0xFFFFFFFF, .none⟩, ⟨"NOP", 0x02000000, 0xFFFFFFFF, .none⟩,
   ⟨"BR", 0x03000000, 0xFFFF0000, .none⟩, ⟨"BT", 0x03100000, 0xFFFF0000, .none⟩,
   ⟨"BF", 0x03200000, 0xFFFF0000, .none⟩, ⟨"BEQ", 0x03300000, 0xFFFF0000, .none⟩,
   ⟨"BNE", 0x03400000, 0xFFFF0000, .none⟩, ⟨"BLT", 0x03500000, 0xFFFF0000, .none⟩,
   ⟨"BGE", 0x03600000, 0xFFFF0000, .none⟩, ⟨"CSRR", 0x04000000, 0xFF0FFFF0, .immLe 10⟩,
   ⟨"CSRW", 0x05000000, 0xFFF0FFF8, .immIn [1, 2, 3, 6, 7]⟩,
   ⟨"CSRWI", 0x06000000, 0xFF8F0000, .rdIn [1, 2, 3, 6, 7]⟩]

/-- The arithmetic and modular rows of the opcode table. -/
def arithRows : List OpcodeRow :=
  [⟨"LI", 0x10000000, 0xFF0F0000, .none⟩, ⟨"MOV", 0x11000000, 0xFF00FFFF, .none⟩,
   ⟨"ADD", 0x12000000, 0xFF000FFF, .none⟩, ⟨"SUB", 0x13000000, 0xFF000FFF, .none⟩,
   ⟨"MUL", 0x14000000, 0xFF000FFF, .none⟩, ⟨"DIV", 0x15000000, 0xFF000FFF, .none⟩,
   ⟨"MOD", 0x16000000, 0xFF000FFF, .none⟩, ⟨"GCD", 0x17000000, 0xFF000FFF, .none⟩,
   ⟨"POW", 0x18000000, 0xFF000000, .none⟩, ⟨"CMP", 0x19000000, 0xFFF00FFF, .none⟩,
   ⟨"MODPOW", 0x20000000, 0xFF0000FF, .none⟩, ⟨"MODINV", 0x21000000, 0xFF000FFF, .none⟩,
   ⟨"MONTMUL", 0x22000000, 0xFF0000FF, .none⟩, ⟨"BMU", 0x23000000, 0xFF00FFFF, .none⟩,
   ⟨"BRED", 0x24000000, 0xFF000FFF, .none⟩]

/-- The bit and octet rows of the opcode table. -/
def bitRows : List OpcodeRow :=
  [⟨"SHL", 0x30000000, 0xFF000000, .none⟩, ⟨"SHR", 0x31000000, 0xFF000000, .none⟩,
   ⟨"AND", 0x32000000, 0xFF000FFF, .none⟩, ⟨"OR", 0x33000000, 0xFF000FFF, .none⟩,
   ⟨"XOR", 0x34000000, 0xFF000FFF, .none⟩, ⟨"NOT", 0x35000000, 0xFF00FFFF, .none⟩,
   ⟨"TESTBIT", 0x36000000, 0xFFF00000, .none⟩, ⟨"SETBIT", 0x37000000, 0xFF000000, .none⟩,
   ⟨"BITLEN", 0x38000000, 0xFF00FFFF, .none⟩, ⟨"ENC", 0x40000000, 0xFFF0FFFF, .none⟩,
   ⟨"DEC", 0x41000000, 0xFF0FFFFF, .none⟩, ⟨"I2OSP", 0x42000000, 0xFFF0FFFF, .none⟩,
   ⟨"OS2IP", 0x43000000, 0xFF0FFFFF, .none⟩]

/-- The prime and key rows of the opcode table. -/
def keyRows : List OpcodeRow :=
  [⟨"PTEST", 0x50000000, 0xFFF00000, .none⟩, ⟨"PGEN", 0x51000000, 0xFF0F0000, .none⟩,
   ⟨"PGENS", 0x52000000, 0xFF0F0000, .none⟩, ⟨"KPUT", 0x60000000, 0xFFF0FFF0, .immLe 8⟩,
   ⟨"KGET", 0x61000000, 0xFF0FFFF0, .immLe 8⟩, ⟨"RSAEP", 0x62000000, 0xFF00FFFF, .none⟩,
   ⟨"RSAVP1", 0x63000000, 0xFF00FFFF, .none⟩, ⟨"RSADP", 0x64000000, 0xFF00FFFF, .none⟩,
   ⟨"RSASP1", 0x65000000, 0xFF00FFFF, .none⟩, ⟨"KEYGEN", 0x66000000, 0xFFFF0000, .none⟩,
   ⟨"KEYGENC", 0x67000000, 0xFFFF0000, .none⟩]

/-- The opcode table of 30_encoding.md R75 and R78: 51 rows for 45 opcodes. -/
def opcodeTable : List OpcodeRow := controlRows ++ arithRows ++ bitRows ++ keyRows

end Sys2Proof
end

