-- ==== Sys2Proof/Machine/IntFns.lean ====
section
/-! DEFINITION. The integer helper functions of 00_scope.md R13 and the bitwise operations of
42_bits.md R140, over mathematical integers. -/

namespace Sys2Proof.Machine

/-- The least `t` with `n < 2^t`, for a natural number. -/
def natLen (n : Nat) : Nat := if n = 0 then 0 else Nat.log2 n + 1

/-- `2^i` as an integer. -/
def pow2 (i : Nat) : Int := ((2 ^ i : Nat) : Int)

/-- `maglen(v)`: the least `t ≥ 0` with `|v| < 2^t` (00_scope.md R13). -/
def maglen (v : Int) : Nat := natLen v.natAbs

/-- `bitlen(v)` (00_scope.md R13): `maglen(v)` for `v ≥ 0`, `maglen(-v-1)` for `v < 0`. -/
def bitlen (v : Int) : Nat := if 0 ≤ v then maglen v else maglen (-v - 1)

/-- `fdiv(a, b)`: the floor of `a/b` (00_scope.md R13). -/
def fdiv (a b : Int) : Int := Int.fdiv a b

/-- `tdiv(a, b)`: truncation toward zero (00_scope.md R13, 40_arith.md R96). -/
def tdiv (a b : Int) : Int := Int.tdiv a b

/-- `emod(a, m)`, `m > 0`: the residue in `0 .. m-1` (00_scope.md R13, 40_arith.md R97). -/
def emod (a m : Int) : Int := Int.emod a m

/-- `gcd(a, b)`, never negative, `gcd(0, 0) = 0` (00_scope.md R13, 40_arith.md R98). -/
def igcd (a b : Int) : Int := (Int.gcd a b : Int)

/-- `bit(v, i)`: bit `i` of the infinite two's-complement reading of `v`, 0 or 1
(00_scope.md R13, 42_bits.md R140). -/
def bitAt (v : Int) (i : Nat) : Int := emod (fdiv v (pow2 i)) 2

/-- `a^e` on integers, `a^0 = 1` (40_arith.md R99). -/
def ipow (a : Int) (e : Nat) : Int :=
  if a < 0 ∧ e % 2 = 1 then -((a.natAbs ^ e : Nat) : Int) else ((a.natAbs ^ e : Nat) : Int)

/-- `NOT v = -v - 1` (42_bits.md R136). -/
def bitNot (a : Int) : Int := -a - 1

/-- Bitwise AND of the infinite two's-complement readings (42_bits.md R133); `negSucc m` is the
complement of `m` (DEDUCED, log 19). -/
def bitAnd : Int → Int → Int
  | .ofNat m, .ofNat n => ((m &&& n : Nat) : Int)
  | .ofNat m, .negSucc n => ((m ^^^ (m &&& n) : Nat) : Int)
  | .negSucc m, .ofNat n => ((n ^^^ (m &&& n) : Nat) : Int)
  | .negSucc m, .negSucc n => .negSucc (m ||| n)

/-- Bitwise OR (42_bits.md R134). -/
def bitOr : Int → Int → Int
  | .ofNat m, .ofNat n => ((m ||| n : Nat) : Int)
  | .ofNat m, .negSucc n => .negSucc (n ^^^ (m &&& n))
  | .negSucc m, .ofNat n => .negSucc (m ^^^ (m &&& n))
  | .negSucc m, .negSucc n => .negSucc (m &&& n)

/-- Bitwise XOR (42_bits.md R135). -/
def bitXor : Int → Int → Int
  | .ofNat m, .ofNat n => ((m ^^^ n : Nat) : Int)
  | .ofNat m, .negSucc n => .negSucc (m ^^^ n)
  | .negSucc m, .ofNat n => .negSucc (m ^^^ n)
  | .negSucc m, .negSucc n => ((m ^^^ n : Nat) : Int)

/-- `SHL`: `a · 2^s` (42_bits.md R131). -/
def shiftLeft (a : Int) (s : Nat) : Int := a * pow2 s

/-- `SHR`: `fdiv(a, 2^s)` (42_bits.md R132). -/
def shiftRight (a : Int) (s : Nat) : Int := fdiv a (pow2 s)

/-- `SETBIT`: `a` if bit `i` is 1, else `a + 2^i` (42_bits.md R138). -/
def setBit (a : Int) (i : Nat) : Int := if bitAt a i = 1 then a else a + pow2 i

end Sys2Proof.Machine
end

