-- ==== Sys2Proof/Machine/ByteFns.lean ====
section
/-! DEFINITION. The byte-string helper functions of 00_scope.md R14; every string is big-endian, lowest
address first (20_memory.md R54). -/

namespace Sys2Proof.Machine

/-- `BE(s)`: the non-negative integer of a big-endian string (00_scope.md R14). -/
def beVal (s : List Byte) : Nat := s.foldl (fun acc b => acc * 256 + b.toNat) 0

/-- `TC(s)`: the two's-complement reading (00_scope.md R14). -/
def tcVal (s : List Byte) : Int :=
  match s with
  | [] => 0
  | b :: _ => if b.toNat < 0x80 then (beVal s : Int) else (beVal s : Int) - ((256 ^ s.length : Nat) : Int)

/-- The low `n` bytes of `v`, most significant first. -/
def beBytes : Nat → Nat → List Byte
  | 0, _ => []
  | n + 1, v => BitVec.ofNat 8 (v / 256 ^ n) :: beBytes n v

/-- `mag(v)`: the minimal big-endian string, empty for 0 (00_scope.md R14). -/
def mag (v : Nat) : List Byte := beBytes ((natLen v + 7) / 8) v

/-- `zeros(n)` (00_scope.md R14). -/
def zeros (n : Nat) : List Byte := List.replicate n 0

/-- `enc(v)`: the canonical sign-safe encoding (00_scope.md R14). -/
def encOctets (v : Nat) : List Byte := if natLen v % 8 = 0 then 0 :: mag v else mag v

end Sys2Proof.Machine
end

