-- ==== Sys2Proof/Machine/State.lean ====
section
/-! DEFINITION. The state of the engine as plain data (10_state.md), what surrounds it as far as the
spec names it (the host's moves, the random source), the reasons a step can stop, and the reset state. -/

namespace Sys2Proof.Machine

/-- The values of `STATUS` (10_state.md R27). -/
inductive RunState where
  | idle | running | done | error
  deriving DecidableEq, Repr

/-- The values of `KFORM` (10_state.md R30): no private key, `ModKey`, `CrtKey`. -/
inductive KForm where
  | noKey | modKey | crtKey
  deriving DecidableEq, Repr

/-- The nine fault kinds of 60_exceptions.md R236.  A command that raises one takes the fault: the step
answers a NEXT state, that of fault entry (60_exceptions.md R243; log 15). -/
inductive FaultKind where
  | badParameter | encoding | decryption | signature | illegalCommand | capacityFault
  | octetAccess | unsetRegister | fetchFault
  deriving DecidableEq, Repr

/-- Where the random source outside the engine stands (00_scope.md R16; log 3).  `script` holds answers
fixed in advance; when it is used up the bytes are the free values `Config.rngByte`.  `bytes` and
`calls` count the bytes and the `RngFill` requests since power-on (44_prime.md R176). -/
structure Rng where
  script : List Byte
  bytes : Nat
  calls : Nat
  deriving DecidableEq, Repr

/-- The host's operations (20_memory.md R61 to R66), and `wait`: the host lets the engine take one
step (log 6).  Arguments outside an operation's domain are kept out by their types
(93_implementation_defined.md I10), except an index at or above `CM_SIZE` or `OM_SIZE` (log 7). -/
inductive HostMove where
  | wait
  | writeCM (i : BitVec 16) (w : Word)
  | readCM (i : BitVec 16)
  | writeOM (a : BitVec 16) (b : Byte)
  | readOM (a : BitVec 16)
  | start (entry : BitVec 16)
  | clear
  | reset
  | readCSR (c : Csr)
  | writeIE (v : BitVec 2)
  deriving DecidableEq, Repr

/-- Why a step of the model stops.  No command stops: every fault of the spec is taken (log 15). -/
inductive Fault where
  /-- A host move names a cell at or above `CM_SIZE`, or a byte at or above `OM_SIZE`: the host has no
  such move (20_memory.md R61, R62; 93_implementation_defined.md I10).  Raised by `State.hostMove`.
  Safe: nothing is claimed of a move that does not exist. -/
  | noSuchCell
  deriving DecidableEq, Repr

/-- Why a step has no meaning. -/
inductive Refusal where
  /-- An instruction whose meaning is not written, by its mnemonic.  Raised by a refused arm of `exec`
  only; there is none.  Safe. -/
  | notModelled (mnemonic : String)
  deriving DecidableEq, Repr

/-- The state.  The first group is the complete architectural state of 10_state.md R20; the second is
the model's own: parameters (log 1), the launch number of the free memory contents (log 2), the random
source (log 3), a generator in progress (log 4) and the host (log 6, log 8). -/
structure State where
  /-- `x[0..15]`: unset (`none`) or an integer (10_state.md R21, R22). -/
  x : Vector (Option Int) 16
  /-- `k[0..8]`: unset or an integer (10_state.md R33). -/
  k : Vector (Option Int) 9
  /-- The command pointer (10_state.md R24). -/
  pc : BitVec 16
  /-- `STATUS` (10_state.md R27). -/
  status : RunState
  /-- `FLAGS`: bit 0 `T`, bit 1 `Z`, bit 2 `N` (10_state.md R25). -/
  flags : BitVec 3
  /-- `PTR` (10_state.md R28). -/
  ptr : BitVec 16
  /-- `LEN` (10_state.md R28). -/
  len : BitVec 16
  /-- `EKIND`: the last fault's kind, `none` for code 0 (10_state.md R29). -/
  ekind : Option FaultKind
  /-- `EPC` (10_state.md R29). -/
  epc : BitVec 16
  /-- `KFORM` (10_state.md R30). -/
  kform : KForm
  /-- `IE`: bit 0 `DONE_IE`, bit 1 `ERR_IE` (10_state.md R31). -/
  ie : BitVec 2
  /-- `CM`: the cells written since the launch, addresses strictly rising (10_state.md R36; log 2). -/
  cm : List (Nat × Word)
  /-- `OM`: the bytes written since the launch, addresses strictly rising (10_state.md R37; log 2). -/
  om : List Host.Cell
  /-- The open parameters (00_scope.md R7); no step changes them (log 1). -/
  par : Params
  /-- How many resets there have been: selects the free memory contents (log 2). -/
  launch : Nat
  /-- The random source (00_scope.md R16; log 3). -/
  rng : Rng
  /-- The prime `p` a `KEYGEN` or `KEYGENC` in progress has drawn (45_rsa.md R199; log 4). -/
  work : Option Nat
  /-- The host's pending moves, next first (log 6). -/
  host : List HostMove
  /-- The value the host's last read returned (20_memory.md R61, R62, R66; log 8). -/
  hostReply : Option Nat
  /-- How many host reads have returned an unspecified value (20_memory.md R66; log 8). -/
  freeReads : Nat
  deriving DecidableEq, Repr

/-- The state after power-on: the table of 10_state.md R41, the default parameters (log 1), and the
model's own fields at the values of log 17. -/
def State.reset : State where
  x := Vector.replicate 16 none
  k := Vector.replicate 9 none
  pc := 0
  status := .idle
  flags := 0
  ptr := 0
  len := 0
  ekind := none
  epc := 0
  kform := .noKey
  ie := 0
  cm := []
  om := []
  par := Params.default
  launch := 0
  rng := ⟨[], 0, 0⟩
  work := none
  host := []
  hostReply := none
  freeReads := 0

end Sys2Proof.Machine
end

