-- ==== Sys2Proof/Machine/Ops.lean ====
section
/-! DEFINITION. The named operations over the state: the two memories, the register and status
updates, taking a fault and the host's return from one, the random source, fetch, and the interrupt
line. -/

namespace Sys2Proof.Machine

/-- What a step and a meaning answer. -/
abbrev Answer := Host.Outcome State Fault Refusal

/-! ## Memories -/

/-- What is written at an address, `none` where nothing has been since the launch. -/
def Memory.lookup {α : Type} : List (Nat × α) → Nat → Option α
  | [], _ => none
  | (b, u) :: m, a => if a = b then some u else Memory.lookup m a

/-- Write one cell, keeping the addresses strictly rising. -/
def Memory.write {α : Type} : List (Nat × α) → Nat → α → List (Nat × α)
  | [], a, v => [(a, v)]
  | (b, u) :: m, a, v =>
    if a < b then (a, v) :: (b, u) :: m
    else if a = b then (a, v) :: m
    else (b, u) :: Memory.write m a v

/-- The canonical form: addresses strictly rising and below the size (log 2). -/
def Memory.wf {α : Type} (size : Nat) : List (Nat × α) → Bool
  | [] => true
  | [p] => decide (p.1 < size)
  | p :: q :: m => decide (p.1 < q.1) && Memory.wf size (q :: m)

/-- Write a string of cells from address `a` on. -/
def Memory.writeString {α : Type} : List (Nat × α) → Nat → List α → List (Nat × α)
  | m, _, [] => m
  | m, a, b :: bs => Memory.writeString (Memory.write m a b) (a + 1) bs

namespace State

/-- `CM[i]`: the word last written, or the launch's free word (10_state.md R36, 20_memory.md R59). -/
def cmRead (s : State) (i : Nat) : Word := (Memory.lookup s.cm i).getD (Config.cmLaunch s.launch i)

/-- `OM[a]`: the byte last written, or the launch's free byte (10_state.md R37, 20_memory.md R59). -/
def omRead (s : State) (a : Nat) : Byte := (Memory.lookup s.om a).getD (Config.omLaunch s.launch a)

/-- The `n` bytes of octet memory from address `a` on, lowest address first (00_scope.md R12). -/
def octets (s : State) : Nat → Nat → List Byte
  | _, 0 => []
  | a, n + 1 => s.omRead a :: octets s (a + 1) n

/-- Replace one cell of command memory (20_memory.md R61). -/
def setCM (s : State) (i : Nat) (w : Word) : State := { s with cm := Memory.write s.cm i w }

/-- Store a byte string in octet memory (00_scope.md R12, after its bounds check). -/
def setOM (s : State) (a : Nat) (bs : List Byte) : State := { s with om := Memory.writeString s.om a bs }

/-- Both memories are in canonical form and inside their sizes. -/
def memWf (s : State) : Bool := Memory.wf s.par.cmSize s.cm && Memory.wf s.par.omSize s.om

/-! ## Registers and status -/

/-- A value fits iff `maglen(v) ≤ CAP_BITS`, always when `CAP_BITS = ∞` (00_scope.md R9). -/
def fits (s : State) (v : Int) : Bool :=
  match s.par.capBits with
  | none => true
  | some c => decide (maglen v ≤ c)

/-- Set `x[i]`; the capacity check is made by the caller (00_scope.md R11). -/
def setX (s : State) (i : XReg) (v : Int) : State := { s with x := s.x.set i (some v) }

/-- Set `k[j]` (00_scope.md R11). -/
def setK (s : State) (j : KReg) (v : Int) : State := { s with k := s.k.set j (some v) }

/-- Replace the whole key bank. -/
def setKeys (s : State) (ks : Vector (Option Int) 9) : State := { s with k := ks }

/-- `pc <- pc + 1` (46_control.md R224; log 14). -/
def advance (s : State) : State := { s with pc := s.pc + 1 }

/-- `pc <- t` (46_control.md R218). -/
def jump (s : State) (t : BitVec 16) : State := { s with pc := t }

/-- Replace `FLAGS`. -/
def setFlags (s : State) (f : BitVec 3) : State := { s with flags := f }

/-- Replace `PTR`. -/
def setPtr (s : State) (v : BitVec 16) : State := { s with ptr := v }

/-- Replace `LEN`. -/
def setLen (s : State) (v : BitVec 16) : State := { s with len := v }

/-- Replace `KFORM`. -/
def setKform (s : State) (f : KForm) : State := { s with kform := f }

/-- Replace `IE`. -/
def setIe (s : State) (v : BitVec 2) : State := { s with ie := v }

/-- Replace `STATUS`. -/
def setStatus (s : State) (r : RunState) : State := { s with status := r }

/-- Move the random source on. -/
def setRng (s : State) (g : Rng) : State := { s with rng := g }

/-- Record the prime a key generation in progress has drawn (log 4). -/
def setWork (s : State) (p : Option Nat) : State := { s with work := p }

/-! ## Faults -/

/-- Fault entry, 60_exceptions.md R243: the kind, the command's index and `ERROR`, nothing else. -/
def faultEntry (s : State) (K : FaultKind) : State :=
  { s with ekind := some K, epc := s.pc, status := .error }

/-- A raise anywhere in a command: fault entry, and nothing else (00_scope.md R15, 46_control.md R215). -/
def raise (s : State) (K : FaultKind) : Answer := .next (s.faultEntry K)

/-- The return from a fault or from `DONE`: `HostClear` (20_memory.md R64, 60_exceptions.md R245). -/
def hostClear (s : State) : State :=
  match s.status with
  | .done | .error => { s with status := .idle, ekind := none, epc := 0 }
  | .idle | .running => s

/-- The interrupt request line, a pure function of the state (10_state.md R40, 60_exceptions.md R247). -/
def irq (s : State) : Bool :=
  match s.status with
  | .done => s.ie.getLsbD 0
  | .error => s.ie.getLsbD 1
  | .idle | .running => false

/-- The command word at `pc`, `none` when `pc ≥ CM_SIZE` (20_memory.md R52). -/
def fetch (s : State) : Option Word :=
  if s.par.cmSize ≤ s.pc.toNat then none else some (s.cmRead s.pc.toNat)

/-- The randomised wait of `RSAVP1`: no architectural effect (45_rsa.md R196; log 12). -/
def delay (s : State) : State := s

/-- Store a command word at `pc` and make the engine run it next, from a fresh start: what the host's
`HostWriteCM`, `HostClear` and `HostStart` do together, with no host move left pending (log 9).  A
`pc` outside command memory becomes 0. -/
def loadAndRun (s : State) (w : Word) : State :=
  let p : BitVec 16 := if s.par.cmSize ≤ s.pc.toNat then 0 else s.pc
  { s with
    pc := p, cm := Memory.write s.cm p.toNat w, status := .running, ekind := none, epc := 0,
    work := none, host := [] }

end State

/-! ## The code numbers of the status registers -/

/-- The code of a `STATUS` value (10_state.md R27). -/
def RunState.code : RunState → Nat
  | .idle => 0
  | .running => 1
  | .done => 2
  | .error => 3

/-- The code of a fault kind (60_exceptions.md R236). -/
def FaultKind.code : FaultKind → Nat
  | .badParameter => 1
  | .encoding => 2
  | .decryption => 3
  | .signature => 4
  | .illegalCommand => 5
  | .capacityFault => 6
  | .octetAccess => 7
  | .unsetRegister => 8
  | .fetchFault => 9

/-- The code `EKIND` holds: 0 when no fault is recorded (10_state.md R29). -/
def ekindCode : Option FaultKind → Nat
  | none => 0
  | some K => K.code

/-- The code of a `KFORM` value (10_state.md R30). -/
def KForm.code : KForm → Nat
  | .noKey => 0
  | .modKey => 1
  | .crtKey => 2

/-- The `KFORM` value of a code in range (10_state.md R30). -/
def KForm.ofCode (n : Nat) : KForm :=
  match n with
  | 0 => .noKey
  | 1 => .modKey
  | _ => .crtKey

/-! ## The random source -/

/-- The next `n` bytes: scripted answers first, then free bytes (00_scope.md R16; log 3). -/
def rngBytes : Nat → List Byte → Nat → List Byte
  | 0, _, _ => []
  | n + 1, b :: bs, p => b :: rngBytes n bs (p + 1)
  | n + 1, [], p => Config.rngByte p :: rngBytes n [] (p + 1)

/-- `RngFill(n)`: one request of `n` bytes (00_scope.md R16). -/
def rngFill (n : Nat) (g : Rng) : List Byte × Rng :=
  (rngBytes n g.script g.bytes, ⟨g.script.drop n, g.bytes + n, g.calls + 1⟩)

end Sys2Proof.Machine
end

