-- ==== Sys2Proof/Machine/Operands.lean ====
section
/-! DEFINITION. Every operand form of a command: reading a source register or key register (with its
`UnsetRegister` fault), reading and writing a CSR, moving a byte string through `PTR`, and writing a
destination register (with its `CapacityFault`).  A reader takes the rest of the command as its last
argument, so that the checks of a command stand in the order 60_exceptions.md R241 gives. -/

namespace Sys2Proof.Machine

namespace State

/-- Read `x[i]` as a source (00_scope.md R11, 60_exceptions.md R239). -/
def readX (s : State) (i : XReg) (f : Int → Answer) : Answer :=
  match s.x.get i with
  | some v => f v
  | none => s.raise .unsetRegister

/-- Read `k[j]` as a source (00_scope.md R11, 60_exceptions.md R239). -/
def readK (s : State) (j : KReg) (f : Int → Answer) : Answer :=
  match s.k.get j with
  | some v => f v
  | none => s.raise .unsetRegister

/-- A check of a command's pseudocode: raise `K` when the condition holds. -/
def check (s : State) (bad : Bool) (K : FaultKind) (rest : Answer) : Answer :=
  if bad then s.raise K else rest

/-- A value of a function that may raise (00_scope.md R17). -/
def value (s : State) (e : Except FaultKind Int) (f : Int → Answer) : Answer :=
  match e with
  | .ok v => f v
  | .error K => s.raise K

/-- `x[rd] <- v`, then `pc <- pc + 1` (00_scope.md R11, 40_arith.md R90). -/
def writeX (s : State) (rd : XReg) (v : Int) : Answer :=
  if s.fits v then .next (s.setX rd v).advance else s.raise .capacityFault

/-- `k[j] <- v`, then `pc <- pc + 1` (00_scope.md R11, 45_rsa.md R187). -/
def writeK (s : State) (j : KReg) (v : Int) : Answer :=
  if s.fits v then .next (s.setK j v).advance else s.raise .capacityFault

/-- `MemRead(csr.PTR, csr.LEN)` (00_scope.md R12). -/
def memRead (s : State) (f : List Byte → Answer) : Answer :=
  if s.par.omSize < s.ptr.toNat + s.len.toNat then s.raise .octetAccess
  else f (s.octets s.ptr.toNat s.len.toNat)

/-- `MemWrite(csr.PTR, |bs|, bs)` (00_scope.md R12): all bytes or none. -/
def memWrite (s : State) (bs : List Byte) (f : State → Answer) : Answer :=
  if s.par.omSize < s.ptr.toNat + bs.length then s.raise .octetAccess
  else f (s.setOM s.ptr.toNat bs)

/-- The value of a CSR, a non-negative integer (10_state.md R26, R32; 46_control.md R220). -/
def csrValue (s : State) (c : Csr) : Nat :=
  match c with
  | .status => s.status.code
  | .flags => s.flags.toNat
  | .ptr => s.ptr.toNat
  | .len => s.len.toNat
  | .ekind => ekindCode s.ekind
  | .epc => s.epc.toNat
  | .kform => s.kform.code
  | .ie => s.ie.toNat
  | .capbits => s.par.capBits.getD 0
  | .omsize => s.par.omSize
  | .cmsize => s.par.cmSize

/-- Store a value in range in a command-writable CSR (46_control.md R221); the others have no command
write access and keep their value (10_state.md R26). -/
def setCsr (s : State) (c : Csr) (v : Nat) : State :=
  match c with
  | .flags => s.setFlags (BitVec.ofNat 3 v)
  | .ptr => s.setPtr (BitVec.ofNat 16 v)
  | .len => s.setLen (BitVec.ofNat 16 v)
  | .kform => s.setKform (KForm.ofCode v)
  | .ie => s.setIe (BitVec.ofNat 2 v)
  | .status | .ekind | .epc | .capbits | .omsize | .cmsize => s

end State

/-- `max(CSR)` of 46_control.md R221; `none` for a CSR no command may write. -/
def csrMax : Csr → Option Nat
  | .flags => some 7
  | .ptr => some 65535
  | .len => some 65535
  | .kform => some 2
  | .ie => some 3
  | .status | .ekind | .epc | .capbits | .omsize | .cmsize => none

/-- The CSR write both `CSRW` and `CSRWI` make (46_control.md R221, R222): the range check, the write,
`pc <- pc + 1`. -/
def State.writeCsr (s : State) (c : Csr) (mx : Nat) (v : Int) : Answer :=
  if v < 0 ∨ (mx : Int) < v then s.raise .badParameter else .next (s.setCsr c v.toNat).advance

end Sys2Proof.Machine
end

