-- ==== Sys2Proof/Machine/Flags.lean ====
section
/-! DEFINITION. The three flags (10_state.md R25): their reading, every way a command computes them, and
the branch conditions (46_control.md R219). -/

namespace Sys2Proof.Machine

/-- The value of `FLAGS` with the three bits given: `T + 2·Z + 4·N` (46_control.md R220). -/
def packFlags (t z n : Bool) : BitVec 3 := BitVec.ofNat 3 (t.toNat + 2 * z.toNat + 4 * n.toNat)

namespace State

/-- `flags.T`, bit 0. -/
def flagT (s : State) : Bool := s.flags.getLsbD 0

/-- `flags.Z`, bit 1. -/
def flagZ (s : State) : Bool := s.flags.getLsbD 1

/-- `flags.N`, bit 2. -/
def flagN (s : State) : Bool := s.flags.getLsbD 2

/-- `flags.T <- t`; `Z` and `N` unchanged (42_bits.md R137, 44_prime.md R172). -/
def writeT (s : State) (t : Bool) : State := s.setFlags (packFlags t s.flagZ s.flagN)

/-- `CMP`: `Z` and `N` from a comparison of `a` with `b`; `T` unchanged (40_arith.md R100). -/
def writeCompare (s : State) (a b : Int) : State :=
  s.setFlags (packFlags s.flagT (decide (a = b)) (decide (a < b)))

/-- A branch: to the target when the condition holds, else to the next command (46_control.md R218). -/
def branch (s : State) (cond : Bool) (t : BitVec 16) : Answer :=
  .next (if cond then s.jump t else s.advance)

end State
end Sys2Proof.Machine
end

