-- ==== Sys2Proof/Machine/Arith.lean ====
section
/-! DEFINITION. The move and integer arithmetic commands of 40_arith.md. -/

namespace Sys2Proof.Machine

/-- `LI bd, imm` (40_arith.md R91). -/
def execLi (rd : XReg) (imm : Imm) (s : State) : Answer := s.writeX rd imm.toNat

/-- `MOV bd, ba` (40_arith.md R92). -/
def execMov (rd ra : XReg) (s : State) : Answer := s.readX ra fun a => s.writeX rd a

/-- `ADD bd, ba, bb` (40_arith.md R93). -/
def execAdd (rd ra rb : XReg) (s : State) : Answer :=
  s.readX ra fun a => s.readX rb fun b => s.writeX rd (a + b)

/-- `SUB bd, ba, bb` (40_arith.md R94). -/
def execSub (rd ra rb : XReg) (s : State) : Answer :=
  s.readX ra fun a => s.readX rb fun b => s.writeX rd (a - b)

/-- `MUL bd, ba, bb` (40_arith.md R95). -/
def execMul (rd ra rb : XReg) (s : State) : Answer :=
  s.readX ra fun a => s.readX rb fun b => s.writeX rd (a * b)

/-- `DIV bd, ba, bb`: truncation toward zero, a zero divisor is refused (40_arith.md R96). -/
def execDiv (rd ra rb : XReg) (s : State) : Answer :=
  s.readX ra fun a => s.readX rb fun b =>
    s.check (decide (b = 0)) .badParameter (s.writeX rd (tdiv a b))

/-- `MOD bd, ba, bb`: the least non-negative residue, a modulus `≤ 0` is refused (40_arith.md R97). -/
def execMod (rd ra rb : XReg) (s : State) : Answer :=
  s.readX ra fun a => s.readX rb fun m =>
    s.check (decide (m ≤ 0)) .badParameter (s.writeX rd (emod a m))

/-- `GCD bd, ba, bb` (40_arith.md R98). -/
def execGcd (rd ra rb : XReg) (s : State) : Answer :=
  s.readX ra fun a => s.readX rb fun b => s.writeX rd (igcd a b)

/-- `POW bd, ba, imm` (40_arith.md R99). -/
def execPow (rd ra : XReg) (imm : Imm) (s : State) : Answer :=
  s.readX ra fun a => s.writeX rd (ipow a imm.toNat)

/-- `CMP ba, bb` (40_arith.md R100). -/
def execCmp (ra rb : XReg) (s : State) : Answer :=
  s.readX ra fun a => s.readX rb fun b => .next (s.writeCompare a b).advance

end Sys2Proof.Machine
end

