-- ==== Sys2Proof/Machine/Bits.lean ====
section
/-! DEFINITION. The shift, bitwise and bit-inspection commands of 42_bits.md. -/

namespace Sys2Proof.Machine

/-- `SHL bd, ba, imm` (42_bits.md R131). -/
def execShl (rd ra : XReg) (imm : Imm) (s : State) : Answer :=
  s.readX ra fun a => s.writeX rd (shiftLeft a imm.toNat)

/-- `SHR bd, ba, imm` (42_bits.md R132). -/
def execShr (rd ra : XReg) (imm : Imm) (s : State) : Answer :=
  s.readX ra fun a => s.writeX rd (shiftRight a imm.toNat)

/-- `AND bd, ba, bb` (42_bits.md R133). -/
def execAnd (rd ra rb : XReg) (s : State) : Answer :=
  s.readX ra fun a => s.readX rb fun b => s.writeX rd (bitAnd a b)

/-- `OR bd, ba, bb` (42_bits.md R134). -/
def execOr (rd ra rb : XReg) (s : State) : Answer :=
  s.readX ra fun a => s.readX rb fun b => s.writeX rd (bitOr a b)

/-- `XOR bd, ba, bb` (42_bits.md R135). -/
def execXor (rd ra rb : XReg) (s : State) : Answer :=
  s.readX ra fun a => s.readX rb fun b => s.writeX rd (bitXor a b)

/-- `NOT bd, ba` (42_bits.md R136). -/
def execNot (rd ra : XReg) (s : State) : Answer := s.readX ra fun a => s.writeX rd (bitNot a)

/-- `TESTBIT ba, imm`: `T` is the tested bit (42_bits.md R137). -/
def execTestbit (ra : XReg) (imm : Imm) (s : State) : Answer :=
  s.readX ra fun a => .next (s.writeT (decide (bitAt a imm.toNat = 1))).advance

/-- `SETBIT bd, ba, imm` (42_bits.md R138). -/
def execSetbit (rd ra : XReg) (imm : Imm) (s : State) : Answer :=
  s.readX ra fun a => s.writeX rd (setBit a imm.toNat)

/-- `BITLEN bd, ba` (42_bits.md R139). -/
def execBitlen (rd ra : XReg) (s : State) : Answer := s.readX ra fun a => s.writeX rd (bitlen a)

end Sys2Proof.Machine
end

