-- ==== Sys2Proof/Machine/Control.lean ====
section
/-! DEFINITION. The control-flow and CSR-access commands of 46_control.md. -/

namespace Sys2Proof.Machine

/-- `HALT`: `STATUS <- DONE`, `pc` not advanced (46_control.md R216). -/
def execHalt (s : State) : Answer := .next (s.setStatus .done)

/-- `NOP` (46_control.md R217). -/
def execNop (s : State) : Answer := .next s.advance

/-- `BR`: always taken (46_control.md R218, R219). -/
def execBr (t : Imm) (s : State) : Answer := s.branch true t

/-- `BT`: taken iff `T = 1` (46_control.md R218, R219). -/
def execBt (t : Imm) (s : State) : Answer := s.branch s.flagT t

/-- `BF`: taken iff `T = 0` (46_control.md R218, R219). -/
def execBf (t : Imm) (s : State) : Answer := s.branch (!s.flagT) t

/-- `BEQ`: taken iff `Z = 1` (46_control.md R218, R219). -/
def execBeq (t : Imm) (s : State) : Answer := s.branch s.flagZ t

/-- `BNE`: taken iff `Z = 0` (46_control.md R218, R219). -/
def execBne (t : Imm) (s : State) : Answer := s.branch (!s.flagZ) t

/-- `BLT`: taken iff `N = 1` (46_control.md R218, R219). -/
def execBlt (t : Imm) (s : State) : Answer := s.branch s.flagN t

/-- `BGE`: taken iff `N = 0` (46_control.md R218, R219). -/
def execBge (t : Imm) (s : State) : Answer := s.branch (!s.flagN) t

/-- `CSRR bd, CSR` (46_control.md R220). -/
def execCsrr (rd : XReg) (c : Csr) (s : State) : Answer := s.writeX rd (s.csrValue c)

/-- `CSRW CSR, ba` (46_control.md R221).  A CSR without command write access makes the word an illegal
command (10_state.md R26); no legal word reaches that case (log 11). -/
def execCsrw (c : Csr) (ra : XReg) (s : State) : Answer :=
  match csrMax c with
  | none => s.raise .illegalCommand
  | some mx => s.readX ra fun v => s.writeCsr c mx v

/-- `CSRWI CSR, imm` (46_control.md R222); the illegal case as for `CSRW` (log 11). -/
def execCsrwi (c : Csr) (imm : Imm) (s : State) : Answer :=
  match csrMax c with
  | none => s.raise .illegalCommand
  | some mx => s.writeCsr c mx imm.toNat

end Sys2Proof.Machine
end

