-- ==== Sys2Proof/Machine/ModFns.lean ====
section
/-! DEFINITION. The modular functions of 41_modular.md: `ModPow`, `ModInverse`, the extended Euclidean
algorithm, the Montgomery product and the Barrett constant; and beside them, as functions of their own,
the ways the units compute (R120, R123, R124), which no command's meaning depends on. -/

namespace Sys2Proof.Machine

/-- The loop of `ModPow` (41_modular.md R111), right to left, on residues; the running base multiplies
before it is squared (90_conflicts.md C7).  The fuel is the number of passes, `maglen(e)` (R113). -/
def powLoop : Nat → Nat → Nat → Nat → Nat → Nat
  | 0, _, acc, _, _ => acc
  | f + 1, m, acc, r, e =>
    if e = 0 then acc else powLoop f m (if e % 2 = 1 then acc * r % m else acc) (r * r % m) (e / 2)

/-- `ModPow(b, e, m)` for `e ≥ 0` and `m ≥ 1` (41_modular.md R111): 0 when `m = 1`. -/
def powMod (b : Int) (e : Nat) (m : Int) : Int :=
  if m = 1 then 0 else (powLoop (natLen e) m.toNat 1 (emod b m).toNat e : Int)

/-- `ExtEuclid` (41_modular.md R116); the fuel bounds the passes (DEDUCED, log 18). -/
def extEuclid : Nat → Int → Int → Int → Int → Int
  | 0, _, _, s0, _ => s0
  | f + 1, r0, r1, s0, s1 =>
    if r1 = 0 then s0
    else extEuclid f r1 (r0 - fdiv r0 r1 * r1) s1 (s0 - fdiv r0 r1 * s1)

/-- The normalised inverse of `a` modulo `n` (41_modular.md R114, after its checks). -/
def invMod (a n : Int) : Int :=
  if n = 1 then 0
  else
    let s := extEuclid (n.toNat + 1) (emod a n) n 1 0
    if s < 0 then s + n else s

/-- `ModInverse(a, n)` (41_modular.md R114). -/
def modInverse (a n : Int) : Except FaultKind Int :=
  if n ≤ 0 then .error .badParameter
  else if n = 1 then .ok 0
  else if igcd a n ≠ 1 then .error .badParameter
  else .ok (invMod a n)

/-- `ModPow(b, e, m)` (41_modular.md R111): `m ≤ 0` is refused, a negative exponent goes through the
inverse of the positive power. -/
def modPow (b e m : Int) : Except FaultKind Int :=
  if m ≤ 0 then .error .badParameter
  else if e < 0 then modInverse (powMod b (-e).toNat m) m
  else .ok (powMod b e.toNat m)

/-- `R = 2^maglen(n)`, the Montgomery radix (41_modular.md R118). -/
def montRadix (n : Int) : Int := pow2 (maglen n)

/-- `MontMul(a, b, n) = emod(a · b · R', n)`, `R' = ModInverse(R, n)` (41_modular.md R118). -/
def montMul (a b n : Int) : Int := emod (a * b * invMod (montRadix n) n) n

/-- `BarrettMu(m) = fdiv(4^maglen(m), m)` (41_modular.md R121). -/
def barrettMu (m : Int) : Int := fdiv (pow2 (2 * maglen m)) m

/-- REDC, how the Montgomery unit computes (41_modular.md R120). -/
def redc (a b n : Int) : Int :=
  let R := montRadix n
  let n' := emod (-(invMod n R)) R
  let t := a * b
  let q := emod (emod t R * n') R
  let u := fdiv (t + q * n) R
  if n ≤ u then u - n else u

/-- The corrective subtractions of the Barrett reducer, at most `f` of them. -/
def subtractWhile : Nat → Int → Int → Int
  | 0, r, _ => r
  | f + 1, r, m => if m ≤ r then subtractWhile f (r - m) m else r

/-- How the Barrett unit reduces (41_modular.md R123): the estimate, then at most two subtractions. -/
def barrettReduce (v m : Int) : Int :=
  let w := maglen m
  let q1 := fdiv v (pow2 (w - 1))
  let q3 := fdiv (q1 * barrettMu m) (pow2 (w + 1))
  subtractWhile 2 (v - q3 * m) m

/-- The loop of `ModPow` with every product a Montgomery product (41_modular.md R124). -/
def montPowLoop : Nat → Int → Int → Int → Nat → Int
  | 0, _, acc, _, _ => acc
  | f + 1, m, acc, r, e =>
    if e = 0 then acc
    else montPowLoop f m (if e % 2 = 1 then montMul acc r m else acc) (montMul r r m) (e / 2)

/-- `ModPow` for `e ≥ 0` run in Montgomery form, odd `m > 1` (41_modular.md R124): convert in with
`emod(R², m)`, run the loop, convert out with 1. -/
def montPowMod (b : Int) (e : Nat) (m : Int) : Int :=
  let R2 := emod (montRadix m * montRadix m) m
  montMul (montPowLoop (natLen e) m (montMul (emod 1 m) R2 m) (montMul (emod b m) R2 m) e) 1 m

end Sys2Proof.Machine
end

