-- ==== Sys2Proof/Machine/Modular.lean ====
section
/-! DEFINITION. The modular commands of 41_modular.md. -/

namespace Sys2Proof.Machine

/-- `MODPOW bd, ba, bb, bc`: base, exponent, modulus (41_modular.md R112). -/
def execModpow (rd ra rb rc : XReg) (s : State) : Answer :=
  s.readX ra fun b => s.readX rb fun e => s.readX rc fun m =>
    s.value (modPow b e m) fun v => s.writeX rd v

/-- `MODINV bd, ba, bb` (41_modular.md R115). -/
def execModinv (rd ra rb : XReg) (s : State) : Answer :=
  s.readX ra fun a => s.readX rb fun n => s.value (modInverse a n) fun v => s.writeX rd v

/-- `MONTMUL bd, ba, bb, bc`: two factors, an odd positive modulus above both (41_modular.md R119). -/
def execMontmul (rd ra rb rc : XReg) (s : State) : Answer :=
  s.readX ra fun a => s.readX rb fun b => s.readX rc fun n =>
    s.check (decide (n ≤ 0 ∨ bitAt n 0 = 0)) .badParameter <|
    s.check (decide (a < 0 ∨ n ≤ a ∨ b < 0 ∨ n ≤ b)) .badParameter <|
    s.writeX rd (montMul a b n)

/-- `BMU bd, ba`: the Barrett constant (41_modular.md R121). -/
def execBmu (rd ra : XReg) (s : State) : Answer :=
  s.readX ra fun m => s.check (decide (m ≤ 0)) .badParameter (s.writeX rd (barrettMu m))

/-- `BRED bd, ba, bb`: `emod(v, m)` on the domain `0 ≤ v < 4^maglen(m)` (41_modular.md R122). -/
def execBred (rd ra rb : XReg) (s : State) : Answer :=
  s.readX ra fun v => s.readX rb fun m =>
    s.check (decide (m ≤ 0)) .badParameter <|
    s.check (decide (v < 0 ∨ pow2 (2 * maglen m) ≤ v)) .badParameter <|
    s.writeX rd (emod v m)

end Sys2Proof.Machine
end

