-- ==== Sys2Proof/Machine/Octets.lean ====
section
/-! DEFINITION. The octet-string commands of 43_octets.md, the engine's loads and stores. -/

namespace Sys2Proof.Machine

/-- `ENC ba`: store the canonical sign-safe encoding and set `LEN` (43_octets.md R151). -/
def execEnc (ra : XReg) (s : State) : Answer :=
  s.readX ra fun v =>
    s.check (decide (v < 0)) .badParameter <|
    s.memWrite (encOctets v.toNat) fun t =>
      .next (t.setLen (BitVec.ofNat 16 (encOctets v.toNat).length)).advance

/-- `DEC bd`: load a two's-complement integer (43_octets.md R152). -/
def execDec (rd : XReg) (s : State) : Answer := s.memRead fun bs => s.writeX rd (tcVal bs)

/-- The bytes `I2OSP` stores: `mag(v)` left-padded to `n` bytes (43_octets.md R153). -/
def padded (n v : Nat) : List Byte := zeros (n - (mag v).length) ++ mag v

/-- `I2OSP ba`: store exactly `LEN` bytes (43_octets.md R153). -/
def execI2osp (ra : XReg) (s : State) : Answer :=
  s.readX ra fun v =>
    s.check (decide (v < 0)) .badParameter <|
    s.check (decide (s.len.toNat < (mag v.toNat).length)) .badParameter <|
    s.memWrite (padded s.len.toNat v.toNat) fun t => .next t.advance

/-- `OS2IP bd`: load an unsigned integer (43_octets.md R154). -/
def execOs2ip (rd : XReg) (s : State) : Answer := s.memRead fun bs => s.writeX rd (beVal bs)

end Sys2Proof.Machine
end

