-- ==== Sys2Proof/Machine/PrimeFns.lean ====
section
/-! DEFINITION. The functions of the prime-test unit (44_prime.md R166 to R171), on natural numbers and the
random source. -/

namespace Sys2Proof.Machine

/-- `n - 1 = 2^s · d`, `d` odd: pull factors of two out of `d` (44_prime.md R166; fuel: log 18). -/
def splitTwos : Nat → Nat → Nat → Nat × Nat
  | 0, d, s => (s, d)
  | f + 1, d, s => if d % 2 = 0 then splitTwos f (d / 2) (s + 1) else (s, d)

/-- The squarings of a Miller–Rabin round: `true` iff `n - 1` never comes up (44_prime.md R166). -/
def mrSquarings : Nat → Nat → Nat → Bool
  | 0, _, _ => true
  | k + 1, n, y => if y * y % n = n - 1 then false else mrSquarings k n (y * y % n)

/-- `MRWitness(a, n)`: does `a` prove `n` composite (44_prime.md R166). -/
def mrWitness (a n : Nat) : Bool :=
  let sd := splitTwos (natLen (n - 1)) (n - 1) 0
  let y := (powMod a sd.2 n).toNat
  if y = 1 ∨ y = n - 1 then false else mrSquarings (sd.1 - 1) n y

/-- `DrawBase(n)` (44_prime.md R167). -/
def drawBase (n : Nat) (g : Rng) : Nat × Rng :=
  let r := rngFill ((natLen n + 7) / 8) g
  (2 + beVal r.1 % (n - 3), r.2)

/-- `MR(n, r)`: up to `r` rounds, stopping at the first witness (44_prime.md R168). -/
def millerRabin (n : Nat) : Nat → Rng → Bool × Rng
  | 0, g => (true, g)
  | r + 1, g =>
    let a := drawBase n g
    if mrWitness a.1 n then (false, a.2) else millerRabin n r a.2

/-- The shaping of the random bytes of `DrawCandidate(bits)`: excess high bits dropped, top and low
bits forced to 1 (44_prime.md R169). -/
def shapeCandidate (bits : Nat) (bs : List Byte) : Nat :=
  let v := beVal bs % 2 ^ bits
  let v := if v / 2 ^ (bits - 1) % 2 = 0 then v + 2 ^ (bits - 1) else v
  if v % 2 = 0 then v + 1 else v

/-- `DrawCandidate(bits)` (44_prime.md R169). -/
def drawCandidate (bits : Nat) (g : Rng) : Nat × Rng :=
  let r := rngFill ((bits + 7) / 8) g
  (shapeCandidate bits r.1, r.2)

/-- The loop of `Sieve` (44_prime.md R170). -/
def sieveLoop : Nat → Nat → Nat
  | 0, c => c
  | f + 1, c => if Nat.gcd c Config.smallPrimeProduct = 1 then c else sieveLoop f (c + 2)

/-- `Sieve(c)` (44_prime.md R170): among `SP` consecutive odd numbers one is coprime to `SP`. -/
def sieve (c : Nat) : Nat := sieveLoop Config.smallPrimeProduct c

/-- One pass of the loop body of `PrimeGen(bits, safe)` (44_prime.md R171): the value it returns, or
`none` where the body says `continue`. -/
def primePass (bits : Nat) (safe : Bool) (g : Rng) : Option Nat × Rng :=
  let d := drawCandidate bits g
  let c := sieve d.1
  if natLen c ≠ bits then (none, d.2)
  else
    let m := millerRabin c Config.mrRounds d.2
    if m.1 then
      if safe then
        let m2 := millerRabin (2 * c + 1) Config.mrRounds m.2
        if m2.1 then (some c, m2.2) else (none, m2.2)
      else (some c, m.2)
    else (none, m.2)

/-- `PrimeGen(bits, safe)`: at most `f` passes; `none` when none of them has returned yet (log 4). -/
def primeGen (bits : Nat) (safe : Bool) : Nat → Rng → Option Nat × Rng
  | 0, g => (none, g)
  | f + 1, g =>
    match primePass bits safe g with
    | (some c, g') => (some c, g')
    | (none, g') => primeGen bits safe f g'

end Sys2Proof.Machine
end

