-- ==== Sys2Proof/Machine/Prime.lean ====
section
/-! DEFINITION. The prime-test and prime-generation commands of 44_prime.md. -/

namespace Sys2Proof.Machine

/-- `PTEST ba, imm` (44_prime.md R172). -/
def execPtest (ra : XReg) (imm : Imm) (s : State) : Answer :=
  s.readX ra fun n =>
    s.check (decide (imm.toNat = 0)) .badParameter <|
    if n < 2 then .next (s.writeT false).advance
    else if n ≤ 3 then .next (s.writeT true).advance
    else if bitAt n 0 = 0 then .next (s.writeT false).advance
    else
      let m := millerRabin n.toNat imm.toNat s.rng
      .next ((s.setRng m.2).writeT m.1).advance

/-- Prime generation into a register, both commands (44_prime.md R173, R174): the check of the bit
length, the retry loop, the write.  When the loop has not ended the command is still in progress: `pc`
stays, and only the random source has moved (44_prime.md R175; log 4). -/
def generatePrime (safe : Bool) (rd : XReg) (imm : Imm) (s : State) : Answer :=
  s.check (decide (imm.toNat < 5)) .badParameter <|
  match primeGen imm.toNat safe Config.genAttempts s.rng with
  | (none, g) => .next (s.setRng g)
  | (some p, g) => (s.setRng g).writeX rd p

/-- `PGEN bd, imm` (44_prime.md R173). -/
def execPgen (rd : XReg) (imm : Imm) (s : State) : Answer := generatePrime false rd imm s

/-- `PGENS bd, imm`: `2p + 1` is tested too (44_prime.md R174). -/
def execPgens (rd : XReg) (imm : Imm) (s : State) : Answer := generatePrime true rd imm s

end Sys2Proof.Machine
end

