-- ==== Sys2Proof/Machine/KeyFns.lean ====
section
/-! DEFINITION. The value-level formulas of 45_rsa.md: the two private-key forms (R192, R193) and the
key-pair generator (R199). -/

namespace Sys2Proof.Machine

/-- `RsaPrivMod(c)`, the modulus form (45_rsa.md R192). -/
def rsaPrivMod (n d c : Int) : Except FaultKind Int :=
  if c < 0 ∨ n ≤ c then .error .badParameter else modPow c d n

/-- The recombination of the CRT form: `m2 + q·h`, `h = emod((m1 - m2)·qInv, p)`, no final reduction
(45_rsa.md R193, R197). -/
def crtCombine (m1 m2 p q qInv : Int) : Int := m2 + q * emod ((m1 - m2) * qInv) p

/-- `RsaPrivCrt(c, onRange)`, the CRT form (45_rsa.md R193). -/
def rsaPrivCrt (onRange : FaultKind) (n p q dP dQ qInv c : Int) : Except FaultKind Int :=
  if c < 0 ∨ n ≤ c then .error onRange
  else
    match modPow c dP p with
    | .error K => .error K
    | .ok m1 =>
      match modPow c dQ q with
      | .error K => .error K
      | .ok m2 => .ok (crtCombine m1 m2 p q qInv)

/-- `(p - 1)·(q - 1)` of 45_rsa.md R199. -/
def keyPhi (p q : Nat) : Int := ((p : Int) - 1) * ((q : Int) - 1)

/-- The two acceptance tests of a drawn pair: the product's bit length, and `gcd(e, phi) = 1`
(45_rsa.md R199). -/
def keyPairOk (bits p q : Nat) : Bool :=
  decide (natLen (p * q) = bits) && decide (igcd Config.pubExponent (keyPhi p q) = 1)

/-- How far `KeyGen(bits)` has come: both primes, or still looping, with the `p` drawn so far. -/
inductive KeyProgress where
  | more (p : Option Nat)
  | done (p q : Nat)
  deriving DecidableEq, Repr

/-- The loops of `KeyGen(bits)` (45_rsa.md R199), at most `f` passes of `PrimeGen`: `p` first, then `q`,
and the whole pair again when it is not accepted (log 4). -/
def keyGen (bits : Nat) : Nat → Option Nat → Rng → KeyProgress × Rng
  | 0, p, g => (.more p, g)
  | f + 1, none, g =>
    let r := primePass (bits / 2) false g
    keyGen bits f r.1 r.2
  | f + 1, some p, g =>
    match primePass (bits / 2) false g with
    | (none, g') => keyGen bits f (some p) g'
    | (some q, g') => if keyPairOk bits p q then (.done p q, g') else keyGen bits f none g'

/-- The immediate's checks of `KEYGEN` and `KEYGENC` (45_rsa.md R200, R201). -/
def badKeyBits (bits : Nat) : Bool := decide (bits % 2 = 1) || decide (bits < 10)

/-- The nine values of a modulus-form key pair: `k[4..8]` become unset (45_rsa.md R200). -/
def modKeyBank (p q : Nat) (d : Int) : Vector (Option Int) 9 :=
  #v[some (p * q : Int), some Config.pubExponent, some (p * q : Int), some d,
    none, none, none, none, none]

/-- The nine values of a CRT-form key pair (45_rsa.md R201). -/
def crtKeyBank (p q : Nat) (d dP dQ qInv : Int) : Vector (Option Int) 9 :=
  #v[some (p * q : Int), some Config.pubExponent, some (p * q : Int), some d,
    some (p : Int), some (q : Int), some dP, some dQ, some qInv]

end Sys2Proof.Machine
end

