-- ==== Sys2Proof/Machine/Rsa.lean ====
section
/-! DEFINITION. The key-register moves, the RSA primitives and key-pair generation of 45_rsa.md. -/

namespace Sys2Proof.Machine

/-- `KPUT kj, ba` (45_rsa.md R187). -/
def execKput (j : KReg) (ra : XReg) (s : State) : Answer := s.readX ra fun v => s.writeK j v

/-- `KGET bd, kj` (45_rsa.md R188). -/
def execKget (rd : XReg) (j : KReg) (s : State) : Answer := s.readK j fun v => s.writeX rd v

/-- A public-key primitive: `x[ra]`, `k[0]`, `k[1]`, the range check with its kind, the power, and what
comes between the result and its write (45_rsa.md R189, R190). -/
def publicPower (onRange : FaultKind) (wait : State → State) (rd ra : XReg) (s : State) : Answer :=
  s.readX ra fun m => s.readK 0 fun n => s.readK 1 fun e =>
    s.check (decide (m < 0 ∨ n ≤ m)) onRange <|
    s.value (modPow m e n) fun v => (wait s).writeX rd v

/-- `RSAEP bd, ba` (45_rsa.md R189). -/
def execRsaep (rd ra : XReg) (s : State) : Answer := publicPower .badParameter id rd ra s

/-- `RSAVP1 bd, ba`: the range check raises `Signature`; the wait of R196 changes no state
(45_rsa.md R190, R196; log 12). -/
def execRsavp1 (rd ra : XReg) (s : State) : Answer := publicPower .signature State.delay rd ra s

/-- `RsaPriv(c, onRange)`: the key variant selects the form; every key register is read before the
range check (45_rsa.md R191, R185). -/
def rsaPriv (onRange : FaultKind) (rd ra : XReg) (s : State) : Answer :=
  s.readX ra fun c =>
    match s.kform with
    | .noKey => s.raise .badParameter
    | .modKey =>
      s.readK 2 fun n => s.readK 3 fun d => s.value (rsaPrivMod n d c) fun v => s.writeX rd v
    | .crtKey =>
      s.readK 2 fun n => s.readK 4 fun p => s.readK 5 fun q => s.readK 6 fun dP =>
        s.readK 7 fun dQ => s.readK 8 fun qInv =>
          s.value (rsaPrivCrt onRange n p q dP dQ qInv c) fun v => s.writeX rd v

/-- `RSADP bd, ba`: the CRT form's range check raises `Decryption` (45_rsa.md R194). -/
def execRsadp (rd ra : XReg) (s : State) : Answer := rsaPriv .decryption rd ra s

/-- `RSASP1 bd, ba`: the range check raises `BadParameter` (45_rsa.md R195). -/
def execRsasp1 (rd ra : XReg) (s : State) : Answer := rsaPriv .badParameter rd ra s

/-- Install a generated key: every value must fit, or nothing is written (45_rsa.md R200, R201;
log 10); then `KFORM` and `pc + 1`. -/
def installKey (bank : Vector (Option Int) 9) (f : KForm) (s : State) : Answer :=
  if bank.toList.all (fun v => v.all s.fits) then .next ((s.setKeys bank).setKform f).advance
  else s.raise .capacityFault

/-- Key generation, both commands (45_rsa.md R199 to R201): the check of the bit length, the retry
loops, then `install` on the accepted pair.  While the loops run the command is in progress: `pc`
stays and the `p` drawn so far is kept (log 4).  A fault after the draws leaves the bytes consumed. -/
def generateKey (imm : Imm) (install : Nat → Nat → State → Answer) (s : State) : Answer :=
  s.check (badKeyBits imm.toNat) .badParameter <|
  match keyGen imm.toNat Config.genAttempts s.work s.rng with
  | (.more p, g) => .next ((s.setRng g).setWork p)
  | (.done p q, g) => install p q ((s.setRng g).setWork none)

/-- What `KEYGEN` installs (45_rsa.md R200). -/
def installModKey (p q : Nat) (s : State) : Answer :=
  s.value (modInverse Config.pubExponent (keyPhi p q)) fun d => installKey (modKeyBank p q d) .modKey s

/-- What `KEYGENC` installs (45_rsa.md R201). -/
def installCrtKey (p q : Nat) (s : State) : Answer :=
  s.value (modInverse Config.pubExponent (keyPhi p q)) fun d =>
  s.value (modInverse Config.pubExponent ((p : Int) - 1)) fun dP =>
  s.value (modInverse Config.pubExponent ((q : Int) - 1)) fun dQ =>
  s.value (modInverse q p) fun qInv => installKey (crtKeyBank p q d dP dQ qInv) .crtKey s

/-- `KEYGEN imm` (45_rsa.md R200). -/
def execKeygen (imm : Imm) (s : State) : Answer := generateKey imm installModKey s

/-- `KEYGENC imm` (45_rsa.md R201). -/
def execKeygenc (imm : Imm) (s : State) : Answer := generateKey imm installCrtKey s

end Sys2Proof.Machine
end

