-- ==== Sys2Proof/Machine/Dispatch.lean ====
section
/-! DEFINITION. The dispatch of a command to its meaning: one arm per constructor of `Instr`. -/

namespace Sys2Proof.Machine

def exec (i : Instr) (s : State) : Host.Outcome State Fault Refusal :=
  match i with
  | .halt => Sys2Proof.Machine.execHalt s
  | .nop => Sys2Proof.Machine.execNop s
  | .br t => Sys2Proof.Machine.execBr t s
  | .bt t => Sys2Proof.Machine.execBt t s
  | .bf t => Sys2Proof.Machine.execBf t s
  | .beq t => Sys2Proof.Machine.execBeq t s
  | .bne t => Sys2Proof.Machine.execBne t s
  | .blt t => Sys2Proof.Machine.execBlt t s
  | .bge t => Sys2Proof.Machine.execBge t s
  | .csrr rd c => Sys2Proof.Machine.execCsrr rd c s
  | .csrw c ra => Sys2Proof.Machine.execCsrw c ra s
  | .csrwi c imm => Sys2Proof.Machine.execCsrwi c imm s
  | .li rd imm => Sys2Proof.Machine.execLi rd imm s
  | .mov rd ra => Sys2Proof.Machine.execMov rd ra s
  | .add rd ra rb => Sys2Proof.Machine.execAdd rd ra rb s
  | .sub rd ra rb => Sys2Proof.Machine.execSub rd ra rb s
  | .mul rd ra rb => Sys2Proof.Machine.execMul rd ra rb s
  | .div rd ra rb => Sys2Proof.Machine.execDiv rd ra rb s
  | .mod rd ra rb => Sys2Proof.Machine.execMod rd ra rb s
  | .gcd rd ra rb => Sys2Proof.Machine.execGcd rd ra rb s
  | .pow rd ra imm => Sys2Proof.Machine.execPow rd ra imm s
  | .cmp ra rb => Sys2Proof.Machine.execCmp ra rb s
  | .modpow rd ra rb rc => Sys2Proof.Machine.execModpow rd ra rb rc s
  | .modinv rd ra rb => Sys2Proof.Machine.execModinv rd ra rb s
  | .montmul rd ra rb rc => Sys2Proof.Machine.execMontmul rd ra rb rc s
  | .bmu rd ra => Sys2Proof.Machine.execBmu rd ra s
  | .bred rd ra rb => Sys2Proof.Machine.execBred rd ra rb s
  | .shl rd ra imm => Sys2Proof.Machine.execShl rd ra imm s
  | .shr rd ra imm => Sys2Proof.Machine.execShr rd ra imm s
  | .and rd ra rb => Sys2Proof.Machine.execAnd rd ra rb s
  | .or rd ra rb => Sys2Proof.Machine.execOr rd ra rb s
  | .xor rd ra rb => Sys2Proof.Machine.execXor rd ra rb s
  | .not rd ra => Sys2Proof.Machine.execNot rd ra s
  | .testbit ra imm => Sys2Proof.Machine.execTestbit ra imm s
  | .setbit rd ra imm => Sys2Proof.Machine.execSetbit rd ra imm s
  | .bitlen rd ra => Sys2Proof.Machine.execBitlen rd ra s
  | .enc ra => Sys2Proof.Machine.execEnc ra s
  | .dec rd => Sys2Proof.Machine.execDec rd s
  | .i2osp ra => Sys2Proof.Machine.execI2osp ra s
  | .os2ip rd => Sys2Proof.Machine.execOs2ip rd s
  | .ptest ra imm => Sys2Proof.Machine.execPtest ra imm s
  | .pgen rd imm => Sys2Proof.Machine.execPgen rd imm s
  | .pgens rd imm => Sys2Proof.Machine.execPgens rd imm s
  | .kput j ra => Sys2Proof.Machine.execKput j ra s
  | .kget rd j => Sys2Proof.Machine.execKget rd j s
  | .rsaep rd ra => Sys2Proof.Machine.execRsaep rd ra s
  | .rsavp1 rd ra => Sys2Proof.Machine.execRsavp1 rd ra s
  | .rsadp rd ra => Sys2Proof.Machine.execRsadp rd ra s
  | .rsasp1 rd ra => Sys2Proof.Machine.execRsasp1 rd ra s
  | .keygen imm => Sys2Proof.Machine.execKeygen imm s
  | .keygenc imm => Sys2Proof.Machine.execKeygenc imm s

end Sys2Proof.Machine
end

