-- ==== Sys2Proof/Machine/Engine.lean ====
section
/-! DEFINITION. The engine's step cycle: fetch, decode, execute (46_control.md R215). -/

namespace Sys2Proof.Machine

/-- One step of the engine (46_control.md R215).  When `STATUS ≠ RUNNING` it takes no step: the state
stays as it is (log 5). -/
def engineStep (s : State) : Host.Outcome State Fault Refusal :=
  match s.status with
  | .running =>
    match s.fetch with
    | none => s.raise .fetchFault
    | some w =>
      match decode w with
      | .error _ => s.raise .illegalCommand
      | .ok i => exec i s
  | .idle | .done | .error => .next s

end Sys2Proof.Machine
end

