-- ==== Sys2Proof/Machine/HostMoves.lean ====
section
/-! DEFINITION. The host's operations (20_memory.md R61 to R66), each atomic, between two command steps. -/

namespace Sys2Proof.Machine
namespace State

/-- What a host read returns to the host (log 8). -/
def reply (s : State) (v : Nat) : State := { s with hostReply := some v }

/-- An unspecified value goes to the host, and the next one will be another (20_memory.md R66; log 8). -/
def freeReply (s : State) (v : Nat) : State := { s with hostReply := some v, freeReads := s.freeReads + 1 }

/-- `HostWriteCM(i, w)` (20_memory.md R61). -/
def hostWriteCM (s : State) (i : Nat) (w : Word) : State :=
  if s.status = .running then s else s.setCM i w

/-- `HostReadCM(i)` (20_memory.md R61). -/
def hostReadCM (s : State) (i : Nat) : State :=
  if s.status = .running then s.freeReply (Config.hostReadWord s.freeReads).toNat
  else s.reply (s.cmRead i).toNat

/-- `HostWriteOM(a, b)` (20_memory.md R62). -/
def hostWriteOM (s : State) (a : Nat) (b : Byte) : State :=
  if s.status = .running then s else s.setOM a [b]

/-- `HostReadOM(a)` (20_memory.md R62). -/
def hostReadOM (s : State) (a : Nat) : State :=
  if s.status = .running then s.freeReply (Config.hostReadByte s.freeReads).toNat
  else s.reply (s.omRead a).toNat

/-- `HostStart(entry)` (20_memory.md R63). -/
def hostStart (s : State) (entry : BitVec 16) : State :=
  if s.status = .idle then { s with pc := entry, status := .running } else s

/-- `HostReset` (20_memory.md R65), and power-on (70_reset_and_hazards.md R265): the table of
10_state.md R41.  The parameters, the random source and the host are not the engine's to reset
(10_state.md R38); the memories become those of the next launch (log 2). -/
def hostReset (s : State) : State :=
  { State.reset with
    par := s.par, launch := s.launch + 1, rng := s.rng, host := s.host, hostReply := s.hostReply,
    freeReads := s.freeReads }

/-- `HostReadCSR(n)` (20_memory.md R66). -/
def hostReadCSR (s : State) (c : Csr) : State := s.reply (s.csrValue c)

/-- `HostWriteIE(v)` (20_memory.md R66). -/
def hostWriteIE (s : State) (v : BitVec 2) : State := s.setIe v

/-- One host operation.  An index the memory does not have is no move of the host's (log 7); `wait`
does nothing here (the engine's step it allows is `step`'s). -/
def hostMove (s : State) (m : HostMove) : Answer :=
  match m with
  | .wait => .next s
  | .writeCM i w => if i.toNat < s.par.cmSize then .next (s.hostWriteCM i.toNat w) else .fault .noSuchCell
  | .readCM i => if i.toNat < s.par.cmSize then .next (s.hostReadCM i.toNat) else .fault .noSuchCell
  | .writeOM a b => if a.toNat < s.par.omSize then .next (s.hostWriteOM a.toNat b) else .fault .noSuchCell
  | .readOM a => if a.toNat < s.par.omSize then .next (s.hostReadOM a.toNat) else .fault .noSuchCell
  | .start e => .next (s.hostStart e)
  | .clear => .next s.hostClear
  | .reset => .next s.hostReset
  | .readCSR c => .next (s.hostReadCSR c)
  | .writeIE v => .next (s.hostWriteIE v)

end State
end Sys2Proof.Machine
end

