-- ==== Sys2Proof/Machine/Step.lean ====
section
/-! DEFINITION. One step: a host move if one is pending, else one step of the engine
(46_control.md R215, 20_memory.md R60; log 6). -/

namespace Sys2Proof.Machine

/-- One step of the machine: the host's next move, or the engine's step when the host waits or has no
move pending (log 6). -/
def step (s : State) : Host.Outcome State Fault Refusal :=
  match s.host with
  | [] => engineStep s
  | .wait :: rest => engineStep { s with host := rest }
  | m :: rest => State.hostMove { s with host := rest } m

/-- The state whose next step fetches and runs the opcode-table word `w` (log 9): a command is one
32-bit cell, whatever `nbits` says (30_encoding.md R70). -/
def State.withFetchWord (s : State) (nbits w : Nat) : State :=
  s.loadAndRun (BitVec.ofNat 32 (w % 2 ^ nbits))

end Sys2Proof.Machine
end

