-- ==== Sys2Proof/Machine/Asm.lean ====
section
/-! DEFINITION. The assembler of 30_encoding.md R81 and R82: one command a line, case-insensitive, labels,
comments, pseudo-instructions; and the printer of a command in the same syntax (log 21). -/

namespace Sys2Proof.Machine.Asm

/-- A source text, a name or an operand, in upper case. -/
abbrev Text := List Char

/-- Spaces between the tokens of a line. -/
def blank (c : Char) : Bool := c == ' ' || c == '\t' || c == '\r'

/-- Drop the blanks at both ends. -/
def trim (t : Text) : Text := ((t.dropWhile blank).reverse.dropWhile blank).reverse

/-- Split at every `sep`; always at least one piece. -/
def split (sep : Char) : Text → List Text
  | [] => [[]]
  | c :: cs =>
    match split sep cs with
    | [] => [[c]]
    | p :: ps => if c == sep then [] :: p :: ps else (c :: p) :: ps

/-- A digit below `base`, at most 16, in upper case. -/
def digit (base : Nat) (c : Char) : Option Nat :=
  let n := if '0' ≤ c ∧ c ≤ '9' then c.toNat - 48 else if 'A' ≤ c ∧ c ≤ 'F' then c.toNat - 55 else base
  if n < base then some n else none

/-- The digits of a numeral, most significant first; leading zeros are allowed (DESIGN CHOICE, log 21). -/
def digits (base : Nat) : Nat → Text → Option Nat
  | acc, [] => some acc
  | acc, c :: cs =>
    match digit base c with
    | some d => digits base (acc * base + d) cs
    | none => none

/-- A number: decimal, or hexadecimal after `0x` (30_encoding.md R81). -/
def number : Text → Option Nat
  | [] => none
  | '0' :: 'X' :: [] => none
  | '0' :: 'X' :: h :: hs => digits 16 0 (h :: hs)
  | c :: cs => digits 10 0 (c :: cs)

/-- A 16-bit immediate, 0 .. 65535 (30_encoding.md R81). -/
def imm (t : Text) : Option Imm :=
  match number t with
  | some n => if n < 65536 then some (BitVec.ofNat 16 n) else none
  | none => none

/-- The labels of a program with the command indices they denote. -/
abbrev Labels := List (Text × Nat)

/-- A branch target: a label or a number (30_encoding.md R81).  The rule does not say which it is where both
fit, nor which of two equal labels counts; the text is looked up as a label first, so that a label `9`
shadows the number 9, and the first of equal labels stands (DESIGN CHOICE, log 21). -/
def target (ls : Labels) (t : Text) : Option Imm :=
  match ls.lookup t with
  | some n => if n < 65536 then some (BitVec.ofNat 16 n) else none
  | none => imm t

/-- `b0` .. `b15` (30_encoding.md R81). -/
def xregOf : Text → Option XReg
  | 'B' :: t =>
    match digits 10 0 t with
    | some n => if h : t ≠ [] ∧ n < 16 then some ⟨n, h.2⟩ else none
    | none => none
  | _ => none

/-- The names of the key registers, `k0` first (10_state.md R33). -/
def keyNames : List String :=
  ["PUB_N", "PUB_E", "PRV_N", "PRV_D", "PRV_P", "PRV_Q", "PRV_DP", "PRV_DQ", "PRV_QINV"]

/-- The names of the CSRs, number 0 first (10_state.md R26). -/
def csrNames : List String :=
  ["STATUS", "FLAGS", "PTR", "LEN", "EKIND", "EPC", "KFORM", "IE", "CAPBITS", "OMSIZE", "CMSIZE"]

/-- The position of a name in a list of names. -/
def indexOf? (names : List String) (t : Text) : Option Nat :=
  (names.map String.toList).findIdx? (· == t)

/-- `k0` .. `k8`, or by name (30_encoding.md R81). -/
def kregOf (t : Text) : Option KReg :=
  let n := match t with
    | 'K' :: d :: ds => digits 10 0 (d :: ds)
    | _ => indexOf? keyNames t
  match n with
  | some n => if h : n < 9 then some ⟨n, h⟩ else none
  | none => none

/-- A CSR by name or number (30_encoding.md R81). -/
def csrOf (t : Text) : Option Csr :=
  match indexOf? csrNames t with
  | some n => Csr.ofNumber? n
  | none => (number t).bind Csr.ofNumber?

/-- What a mnemonic makes of its operands. -/
abbrev Form := Labels → List Text → Option Instr

/-- No operands. -/
def fZ (i : Instr) : Form := fun _ ops =>
  match ops with
  | [] => some i
  | _ => none

/-- A branch: the target. -/
def fB (f : Imm → Instr) : Form := fun ls ops =>
  match ops with
  | [t] => (target ls t).map f
  | _ => none

/-- `B cc, t` with a numeric condition code (30_encoding.md R82). -/
def fCc : Form := fun ls ops =>
  match ops with
  | [cc, t] =>
    match number cc, target ls t with
    | some n, some a => (branchOf n a).toOption
    | _, _ => none
  | _ => none

/-- One register. -/
def f1 (f : XReg → Instr) : Form := fun _ ops =>
  match ops with
  | [d] => (xregOf d).map f
  | _ => none

/-- Two registers. -/
def f2 (f : XReg → XReg → Instr) : Form := fun _ ops =>
  match ops with
  | [d, a] => (xregOf d).bind fun d => (xregOf a).map (f d)
  | _ => none

/-- Three registers. -/
def f3 (f : XReg → XReg → XReg → Instr) : Form := fun _ ops =>
  match ops with
  | [d, a, b] => (xregOf d).bind fun d => (xregOf a).bind fun a => (xregOf b).map (f d a)
  | _ => none

/-- Four registers. -/
def f4 (f : XReg → XReg → XReg → XReg → Instr) : Form := fun _ ops =>
  match ops with
  | [d, a, b, c] =>
    (xregOf d).bind fun d => (xregOf a).bind fun a => (xregOf b).bind fun b => (xregOf c).map (f d a b)
  | _ => none

/-- An immediate. -/
def fI (f : Imm → Instr) : Form := fun _ ops =>
  match ops with
  | [v] => (imm v).map f
  | _ => none

/-- A register and an immediate. -/
def f1I (f : XReg → Imm → Instr) : Form := fun _ ops =>
  match ops with
  | [d, v] => (xregOf d).bind fun d => (imm v).map (f d)
  | _ => none

/-- Two registers and an immediate. -/
def f2I (f : XReg → XReg → Imm → Instr) : Form := fun _ ops =>
  match ops with
  | [d, a, v] => (xregOf d).bind fun d => (xregOf a).bind fun a => (imm v).map (f d a)
  | _ => none

/-- `CSRR bd, CSR`. -/
def fCsrr : Form := fun _ ops =>
  match ops with
  | [d, c] => (xregOf d).bind fun d => (csrOf c).map (Instr.csrr d)
  | _ => none

/-- `CSRW CSR, ba`. -/
def fCsrw : Form := fun _ ops =>
  match ops with
  | [c, a] => (csrOf c).bind fun c => (xregOf a).map (Instr.csrw c)
  | _ => none

/-- `CSRWI CSR, imm`. -/
def fCsrwi : Form := fun _ ops =>
  match ops with
  | [c, v] => (csrOf c).bind fun c => (imm v).map (Instr.csrwi c)
  | _ => none

/-- `KPUT kj, ba`. -/
def fKput : Form := fun _ ops =>
  match ops with
  | [j, a] => (kregOf j).bind fun j => (xregOf a).map (Instr.kput j)
  | _ => none

/-- `KGET bd, kj`. -/
def fKget : Form := fun _ ops =>
  match ops with
  | [d, j] => (xregOf d).bind fun d => (kregOf j).map (Instr.kget d)
  | _ => none

/-- The mnemonics of 30_encoding.md R75 and R79 with their operand forms. -/
def mnemonics : List (String × Form) :=
  [("HALT", fZ .halt), ("NOP", fZ .nop), ("B", fCc), ("BR", fB .br), ("BT", fB .bt), ("BF", fB .bf),
   ("BEQ", fB .beq), ("BNE", fB .bne), ("BLT", fB .blt), ("BGE", fB .bge), ("CSRR", fCsrr),
   ("CSRW", fCsrw), ("CSRWI", fCsrwi), ("LI", f1I .li), ("MOV", f2 .mov), ("ADD", f3 .add),
   ("SUB", f3 .sub), ("MUL", f3 .mul), ("DIV", f3 .div), ("MOD", f3 .mod), ("GCD", f3 .gcd),
   ("POW", f2I .pow), ("CMP", f2 .cmp), ("MODPOW", f4 .modpow), ("MODINV", f3 .modinv),
   ("MONTMUL", f4 .montmul), ("BMU", f2 .bmu), ("BRED", f3 .bred)] ++
  [("SHL", f2I .shl), ("SHR", f2I .shr), ("AND", f3 .and), ("OR", f3 .or), ("XOR", f3 .xor),
   ("NOT", f2 .not), ("TESTBIT", f1I .testbit), ("SETBIT", f2I .setbit), ("BITLEN", f2 .bitlen),
   ("ENC", f1 .enc), ("DEC", f1 .dec), ("I2OSP", f1 .i2osp), ("OS2IP", f1 .os2ip),
   ("PTEST", f1I .ptest), ("PGEN", f1I .pgen), ("PGENS", f1I .pgens), ("KPUT", fKput),
   ("KGET", fKget), ("RSAEP", f2 .rsaep), ("RSAVP1", f2 .rsavp1), ("RSADP", f2 .rsadp),
   ("RSASP1", f2 .rsasp1), ("KEYGEN", fI .keygen), ("KEYGENC", fI .keygenc)]

/-- The pseudo-instructions, each one command (30_encoding.md R82). -/
def pseudos : List (String × Form) :=
  [("SETPTR", fI Instr.setptr), ("SETLEN", fI Instr.setlen), ("SETKFORM", fI Instr.setkform),
   ("CLRFLAGS", fZ Instr.clrflags)]

/-- One command from its mnemonic and operands; a write of a CSR no command may write is refused. -/
def command (ls : Labels) (m : Text) (ops : List Text) : Option Instr :=
  match (mnemonics ++ pseudos).find? (fun p => p.1.toList == m) with
  | none => none
  | some p =>
    match p.2 ls ops with
    | none => none
    | some i => if i.wf then some i else none

/-- A line without its comment, with blanks at the ends dropped. -/
def code (line : Text) : Text := trim (line.takeWhile (· != ';'))

/-- The label at the start of a line, if there is one, and what follows it.  30_encoding.md R81 does not say
what a name may be: any text before the first `:` of the line is one (DESIGN CHOICE, log 21). -/
def label (line : Text) : Option Text × Text :=
  match split ':' line with
  | l :: r :: rs => (some (trim l), trim (List.intercalate [':'] (r :: rs)))
  | _ => (none, line)

/-- The text of a command: mnemonic, then operands separated by commas. -/
def parse (ls : Labels) (t : Text) : Option Instr :=
  let m := t.takeWhile (fun c => !blank c)
  let rest := trim (t.dropWhile (fun c => !blank c))
  command ls m (if rest.isEmpty then [] else (split ',' rest).map trim)

/-- The lines of a source text: for each, its label and the text of its command, both optional. -/
def lines (src : Text) : List (Option Text × Text) :=
  (split '\n' (src.map Char.toUpper)).map fun l => label (code l)

/-- The labels of a program loaded at index `i`, first line first (30_encoding.md R81; log 21). -/
def labelsFrom : Nat → List (Option Text × Text) → Labels
  | _, [] => []
  | i, (l, t) :: rest =>
    let more := labelsFrom (if t.isEmpty then i else i + 1) rest
    match l with
    | some n => (n, i) :: more
    | none => more

/-- The commands of the lines, `none` if a line is refused. -/
def commands (ls : Labels) : List (Option Text × Text) → Option (List Instr)
  | [] => some []
  | (_, t) :: rest =>
    if t.isEmpty then commands ls rest
    else
      match parse ls t, commands ls rest with
      | some i, some is => some (i :: is)
      | _, _ => none

/-- The command words of a program loaded at index `base` (0 unless stated, 30_encoding.md R81). -/
def assemble (base : Nat) (src : String) : Option (List Word) :=
  let ls := lines src.toList
  (commands (labelsFrom base ls) ls).map (·.map encode)

/-- The printed operands of a command. -/
def operands : Instr → List String
  | .halt | .nop => []
  | .br t | .bt t | .bf t | .beq t | .bne t | .blt t | .bge t => [dec t.toNat]
  | .csrr rd c => [b rd, csr c]
  | .csrw c ra => [csr c, b ra]
  | .csrwi c v => [csr c, dec v.toNat]
  | .li rd v | .pgen rd v | .pgens rd v => [b rd, dec v.toNat]
  | .testbit ra v | .ptest ra v => [b ra, dec v.toNat]
  | .mov rd ra | .cmp rd ra | .bmu rd ra | .not rd ra | .bitlen rd ra => [b rd, b ra]
  | .rsaep rd ra | .rsavp1 rd ra | .rsadp rd ra | .rsasp1 rd ra => [b rd, b ra]
  | .add rd ra rb | .sub rd ra rb | .mul rd ra rb | .div rd ra rb => [b rd, b ra, b rb]
  | .mod rd ra rb | .gcd rd ra rb | .modinv rd ra rb | .bred rd ra rb => [b rd, b ra, b rb]
  | .and rd ra rb | .or rd ra rb | .xor rd ra rb => [b rd, b ra, b rb]
  | .pow rd ra v | .shl rd ra v | .shr rd ra v | .setbit rd ra v => [b rd, b ra, dec v.toNat]
  | .modpow rd ra rb rc | .montmul rd ra rb rc => [b rd, b ra, b rb, b rc]
  | .enc r | .dec r | .i2osp r | .os2ip r => [b r]
  | .kput j ra => ["k" ++ dec j, b ra]
  | .kget rd j => [b rd, "k" ++ dec j]
  | .keygen v | .keygenc v => [dec v.toNat]
where
  dec (n : Nat) : String := String.ofList (Nat.toDigits 10 n)
  b (r : XReg) : String := "b" ++ dec r
  csr (c : Csr) : String := csrNames.getD c.number ""

/-- A command in the syntax of 30_encoding.md R81. -/
def print (i : Instr) : String :=
  match operands i with
  | [] => i.mnemonic
  | ops => i.mnemonic ++ " " ++ String.intercalate ", " ops

end Sys2Proof.Machine.Asm
end

