-- ==== Sys2Proof/Safety.lean ====
section
/-! DEFINITION. What counts as a good state and a safe run, and the words the claims use: the invariant
of the machine, which registers a command reads and writes, and the two ways a command ends. -/

namespace Sys2Proof.Machine

/-! ## The words of the claims -/

/-- A value fits iff `|v| < 2^CAP_BITS`, always when `CAP_BITS = ∞` (00_scope.md R9, R13). -/
def Fits (s : State) (v : Int) : Prop := ∀ c, s.par.capBits = some c → v.natAbs < 2 ^ c

/-- The state after fault entry of kind `K` (60_exceptions.md R243), field by field. -/
def faulted (s : State) (K : FaultKind) : State := { s with ekind := some K, epc := s.pc, status := .error }

/-- The state after `x[rd] <- v; pc <- pc + 1`, field by field. -/
def written (s : State) (rd : XReg) (v : Int) : State :=
  { s with x := s.x.set rd (some v), pc := s.pc + 1 }

/-- The command ends by writing `v` to `x[rd]`: it completes when `v` fits, and else raises
`CapacityFault` with nothing written (00_scope.md R11). -/
def EndsWriting (i : Instr) (s : State) (rd : XReg) (v : Int) : Prop :=
  (Fits s v → exec i s = .next (written s rd v)) ∧
  (¬ Fits s v → exec i s = .next (faulted s .capacityFault))

/-- The command takes the fault `K`. -/
def Faults (i : Instr) (s : State) (K : FaultKind) : Prop := exec i s = .next (faulted s K)

/-- The big-integer register a command may write, if it has one (30_encoding.md R75). -/
def destOf : Instr → Option XReg
  | .csrr rd _ | .li rd _ | .mov rd _ | .add rd _ _ | .sub rd _ _ | .mul rd _ _ | .div rd _ _ => some rd
  | .mod rd _ _ | .gcd rd _ _ | .pow rd _ _ | .modpow rd _ _ _ | .modinv rd _ _ => some rd
  | .montmul rd _ _ _ | .bmu rd _ | .bred rd _ _ | .shl rd _ _ | .shr rd _ _ | .and rd _ _ => some rd
  | .or rd _ _ | .xor rd _ _ | .not rd _ | .setbit rd _ _ | .bitlen rd _ | .dec rd | .os2ip rd => some rd
  | .pgen rd _ | .pgens rd _ | .kget rd _ | .rsaep rd _ | .rsavp1 rd _ | .rsadp rd _ => some rd
  | .rsasp1 rd _ => some rd
  | .halt | .nop | .br _ | .bt _ | .bf _ | .beq _ | .bne _ | .blt _ | .bge _ | .csrw _ _ => none
  | .csrwi _ _ | .cmp _ _ | .testbit _ _ | .enc _ | .i2osp _ | .ptest _ _ | .kput _ _ => none
  | .keygen _ | .keygenc _ => none

/-- The big-integer registers a command reads as sources, in the order `ra`, `rb`, `rc`
(30_encoding.md R75, 60_exceptions.md R239). -/
def sourcesOf : Instr → List XReg
  | .csrw _ ra | .mov _ ra | .pow _ ra _ | .bmu _ ra | .shl _ ra _ | .shr _ ra _ | .not _ ra => [ra]
  | .testbit ra _ | .setbit _ ra _ | .bitlen _ ra | .enc ra | .i2osp ra | .ptest ra _ => [ra]
  | .kput _ ra | .rsaep _ ra | .rsavp1 _ ra | .rsadp _ ra | .rsasp1 _ ra => [ra]
  | .add _ ra rb | .sub _ ra rb | .mul _ ra rb | .div _ ra rb | .mod _ ra rb | .gcd _ ra rb => [ra, rb]
  | .cmp ra rb | .modinv _ ra rb | .bred _ ra rb | .and _ ra rb | .or _ ra rb | .xor _ ra rb => [ra, rb]
  | .modpow _ ra rb rc | .montmul _ ra rb rc => [ra, rb, rc]
  | .halt | .nop | .br _ | .bt _ | .bf _ | .beq _ | .bne _ | .blt _ | .bge _ | .csrr _ _ => []
  | .csrwi _ _ | .li _ _ | .dec _ | .os2ip _ | .pgen _ _ | .pgens _ _ | .kget _ _ => []
  | .keygen _ | .keygenc _ => []

/-- The commands whose retry loop may not end (44_prime.md R175). -/
def isGenerator : Instr → Bool
  | .pgen _ _ | .pgens _ _ | .keygen _ | .keygenc _ => true
  | .halt | .nop | .br _ | .bt _ | .bf _ | .beq _ | .bne _ | .blt _ | .bge _ | .csrr _ _ => false
  | .csrw _ _ | .csrwi _ _ | .li _ _ | .mov _ _ | .add _ _ _ | .sub _ _ _ | .mul _ _ _ => false
  | .div _ _ _ | .mod _ _ _ | .gcd _ _ _ | .pow _ _ _ | .cmp _ _ | .modpow _ _ _ _ => false
  | .modinv _ _ _ | .montmul _ _ _ _ | .bmu _ _ | .bred _ _ _ | .shl _ _ _ | .shr _ _ _ => false
  | .and _ _ _ | .or _ _ _ | .xor _ _ _ | .not _ _ | .testbit _ _ | .setbit _ _ _ => false
  | .bitlen _ _ | .enc _ | .dec _ | .i2osp _ | .os2ip _ | .ptest _ _ | .kput _ _ => false
  | .kget _ _ | .rsaep _ _ | .rsavp1 _ _ | .rsadp _ _ | .rsasp1 _ _ => false

/-- The target of a branch command and whether it is taken (46_control.md R219). -/
def branchOutcome (s : State) : Instr → Option (Imm × Bool)
  | .br t => some (t, true)
  | .bt t => some (t, s.flags.getLsbD 0)
  | .bf t => some (t, !s.flags.getLsbD 0)
  | .beq t => some (t, s.flags.getLsbD 1)
  | .bne t => some (t, !s.flags.getLsbD 1)
  | .blt t => some (t, s.flags.getLsbD 2)
  | .bge t => some (t, !s.flags.getLsbD 2)
  | .halt | .nop | .csrr _ _ | .csrw _ _ | .csrwi _ _ | .li _ _ | .mov _ _ | .add _ _ _ => none
  | .sub _ _ _ | .mul _ _ _ | .div _ _ _ | .mod _ _ _ | .gcd _ _ _ | .pow _ _ _ | .cmp _ _ => none
  | .modpow _ _ _ _ | .modinv _ _ _ | .montmul _ _ _ _ | .bmu _ _ | .bred _ _ _ => none
  | .shl _ _ _ | .shr _ _ _ | .and _ _ _ | .or _ _ _ | .xor _ _ _ | .not _ _ => none
  | .testbit _ _ | .setbit _ _ _ | .bitlen _ _ | .enc _ | .dec _ | .i2osp _ | .os2ip _ => none
  | .ptest _ _ | .pgen _ _ | .pgens _ _ | .kput _ _ | .kget _ _ | .rsaep _ _ | .rsavp1 _ _ => none
  | .rsadp _ _ | .rsasp1 _ _ | .keygen _ | .keygenc _ => none

/-- `t` is the value 41_modular.md R111 and R113 give `b` to the power `e` modulo `m`: the residue of
the power, or for a negative exponent the inverse of the positive power. -/
def IsPower (b e m t : Int) : Prop :=
  0 ≤ t ∧ t < m ∧ (0 ≤ e → t = b ^ e.toNat % m) ∧ (e < 0 → t * b ^ (-e).toNat % m = 1 % m)

/-- The power has no value: the modulus is not positive, or the exponent is negative and the positive
power has no inverse (41_modular.md R112). -/
def NoPower (b e m : Int) : Prop := m ≤ 0 ∨ (e < 0 ∧ Int.gcd (b ^ (-e).toNat) m ≠ 1)

/-- `MODPOW`, or an RSA primitive once its range check has passed, raising `b` to `e` modulo `m`. -/
def EndsWithPower (i : Instr) (s : State) (rd : XReg) (b e m : Int) : Prop :=
  (NoPower b e m → Faults i s .badParameter) ∧
  (¬ NoPower b e m → ∃ t, IsPower b e m t ∧ EndsWriting i s rd t)

/-- The command sets `T` to `b`, moves the random source to `g` and goes on; `Z`, `N` and the rest of the
state stay (10_state.md R25). -/
def EndsSettingT (i : Instr) (s : State) (b : Bool) (g : Rng) : Prop :=
  ∃ f : BitVec 3, f.getLsbD 0 = b ∧ f.getLsbD 1 = s.flags.getLsbD 1 ∧ f.getLsbD 2 = s.flags.getLsbD 2 ∧
    exec i s = .next { s with flags := f, rng := g, pc := s.pc + 1 }

/-- A CSR write of `v` under the bound `mx` of 46_control.md R221: `stored` says the completed write;
outside the range `BadParameter` is taken. -/
def Ranged (i : Instr) (s : State) (v : Int) (mx : Nat) (stored : Prop) : Prop :=
  (0 ≤ v → v ≤ mx → stored) ∧ (v < 0 ∨ (mx : Int) < v → Faults i s .badParameter)

/-- The command writes `v` to the CSR: the register holds exactly `v`, or `BadParameter` is taken
(46_control.md R221, R222).  A CSR without command write access makes it an illegal command (log 11). -/
def WritesCsr (i : Instr) (s : State) (v : Int) : Csr → Prop
  | .flags => Ranged i s v 7 (∃ f : BitVec 3, (f.toNat : Int) = v ∧
      exec i s = .next { s with flags := f, pc := s.pc + 1 })
  | .ptr => Ranged i s v 65535 (∃ p : BitVec 16, (p.toNat : Int) = v ∧
      exec i s = .next { s with ptr := p, pc := s.pc + 1 })
  | .len => Ranged i s v 65535 (∃ n : BitVec 16, (n.toNat : Int) = v ∧
      exec i s = .next { s with len := n, pc := s.pc + 1 })
  | .kform => Ranged i s v 2 (∃ f : KForm, (f.code : Int) = v ∧
      exec i s = .next { s with kform := f, pc := s.pc + 1 })
  | .ie => Ranged i s v 3 (∃ e : BitVec 2, (e.toNat : Int) = v ∧
      exec i s = .next { s with ie := e, pc := s.pc + 1 })
  | .status | .ekind | .epc | .capbits | .omsize | .cmsize => Faults i s .illegalCommand

/-- The unsigned integer of the `n` bytes at address `a`, lowest address most significant
(00_scope.md R14, 20_memory.md R54). -/
def bigEndianAt (s : State) (a n : Nat) : Nat :=
  ∑ j ∈ Finset.range n, (s.omRead (a + j)).toNat * 256 ^ (n - 1 - j)

/-- The two's-complement reading of the same bytes (00_scope.md R14). -/
def twosComplementAt (s : State) (a n : Nat) : Int :=
  if n = 0 ∨ (s.omRead a).toNat < 128 then bigEndianAt s a n else (bigEndianAt s a n : Int) - 256 ^ n

/-- Every byte of octet memory outside the `n` bytes at `a` reads in `t` as it reads in `s`. -/
def SameOutside (s t : State) (a n : Nat) : Prop :=
  ∀ c, c < a ∨ a + n ≤ c → t.omRead c = s.omRead c

/-! ### The random source and what is drawn from it -/

/-- The byte the random source answers with, `j` bytes ahead: from the answers fixed in advance, then a
free byte (00_scope.md R16; log 3). -/
def randomByte (g : Rng) (j : Nat) : Byte := g.script.getD j (Config.rngByte (g.bytes + j))

/-- The unsigned integer of the next `L` bytes, first byte most significant (00_scope.md R14, R16). -/
def randomValue (g : Rng) (L : Nat) : Nat :=
  ∑ j ∈ Finset.range L, (randomByte g j).toNat * 256 ^ (L - 1 - j)

/-- The random source after one request of `L` bytes. -/
def randomNext (g : Rng) (L : Nat) : Rng := ⟨g.script.drop L, g.bytes + L, g.calls + 1⟩

/-- Finitely many requests take the random source from `g` to `h`. -/
def LeadsTo (g h : Rng) : Prop := ∃ sizes : List Nat, sizes.foldl randomNext g = h

/-- The bases of `k` rounds on `n`, drawn one after another from `g`, and where that leaves the source
(44_prime.md R168). -/
def drawnBases (n : Nat) : Nat → Rng → List Nat × Rng
  | 0, g => ([], g)
  | k + 1, g =>
    ((drawBase n g).1 :: (drawnBases n k (drawBase n g).2).1, (drawnBases n k (drawBase n g).2).2)

/-- The pass of `PrimeGen`'s loop that begins with the source at `g`, ends with it at `g'` and returns `p`:
the candidate drawn there, sieved, of the bit length asked for and coprime to `SP`, through the 64 rounds
drawn next, and with the safe flag `2p + 1` through the 64 after them (44_prime.md R171, R175). -/
def AcceptedPass (bits : Nat) (safe : Bool) (p : Nat) (g g' : Rng) : Prop :=
  p = sieve (drawCandidate bits g).1 ∧ Nat.size p = bits ∧ p % 2 = 1 ∧ Nat.gcd p 4849845 = 1 ∧
    ∃ h, millerRabin p 64 (drawCandidate bits g).2 = (true, h) ∧
      (safe = false → h = g') ∧ (safe = true → millerRabin (2 * p + 1) 64 h = (true, g'))

/-- `p` is a prime half of a key of `bits` bits that some pass has accepted, and the source has since come
to `h` (45_rsa.md R199). -/
def AcceptedBefore (bits p : Nat) (h : Rng) : Prop :=
  ∃ a b, AcceptedPass (bits / 2) false p a b ∧ LeadsTo b h

/-- Where the first prime `p` of a pair comes from, for a `KeyGen` that was entered with `w` and the source
at `g` and now stands at `h`: held on entry, or accepted by a pass on the draws in between
(45_rsa.md R199; log 4). -/
def FirstPrime (bits : Nat) (w : Option Nat) (p : Nat) (g h : Rng) : Prop :=
  (w = some p ∧ LeadsTo g h) ∨
    ∃ a b, LeadsTo g a ∧ AcceptedPass (bits / 2) false p a b ∧ LeadsTo b h

/-- The commands 60_exceptions.md R238 lists for `BadParameter`. -/
def mayRaiseBadParameter : Instr → Bool
  | .div _ _ _ | .mod _ _ _ | .modpow _ _ _ _ | .modinv _ _ _ | .montmul _ _ _ _ | .bmu _ _ => true
  | .bred _ _ _ | .enc _ | .i2osp _ | .ptest _ _ | .pgen _ _ | .pgens _ _ | .rsaep _ _ => true
  | .rsavp1 _ _ | .rsadp _ _ | .rsasp1 _ _ | .keygen _ | .keygenc _ | .csrw _ _ | .csrwi _ _ => true
  | .halt | .nop | .br _ | .bt _ | .bf _ | .beq _ | .bne _ | .blt _ | .bge _ | .csrr _ _ => false
  | .li _ _ | .mov _ _ | .add _ _ _ | .sub _ _ _ | .mul _ _ _ | .gcd _ _ _ | .pow _ _ _ => false
  | .cmp _ _ | .shl _ _ _ | .shr _ _ _ | .and _ _ _ | .or _ _ _ | .xor _ _ _ | .not _ _ => false
  | .testbit _ _ | .setbit _ _ _ | .bitlen _ _ | .dec _ | .os2ip _ | .kput _ _ | .kget _ _ => false

/-- The commands that access octet memory (20_memory.md R51). -/
def accessesOctets : Instr → Bool
  | .enc _ | .dec _ | .i2osp _ | .os2ip _ => true
  | .halt | .nop | .br _ | .bt _ | .bf _ | .beq _ | .bne _ | .blt _ | .bge _ | .csrr _ _ => false
  | .csrw _ _ | .csrwi _ _ | .li _ _ | .mov _ _ | .add _ _ _ | .sub _ _ _ | .mul _ _ _ => false
  | .div _ _ _ | .mod _ _ _ | .gcd _ _ _ | .pow _ _ _ | .cmp _ _ | .modpow _ _ _ _ => false
  | .modinv _ _ _ | .montmul _ _ _ _ | .bmu _ _ | .bred _ _ _ | .shl _ _ _ | .shr _ _ _ => false
  | .and _ _ _ | .or _ _ _ | .xor _ _ _ | .not _ _ | .testbit _ _ | .setbit _ _ _ => false
  | .bitlen _ _ | .ptest _ _ | .pgen _ _ | .pgens _ _ | .kput _ _ | .kget _ _ | .rsaep _ _ => false
  | .rsavp1 _ _ | .rsadp _ _ | .rsasp1 _ _ | .keygen _ | .keygenc _ => false

/-- The table of 10_state.md R41: every register and CSR at its reset value, no interrupt requested, and
both memories as the launch left them (log 2). -/
def ResetTable (s : State) : Prop :=
  (∀ i, s.x.get i = none) ∧ (∀ j, s.k.get j = none) ∧ s.pc = 0 ∧ s.status = .idle ∧ s.flags = 0 ∧
  s.ptr = 0 ∧ s.len = 0 ∧ s.ekind = none ∧ s.epc = 0 ∧ s.kform = .noKey ∧ s.ie = 0 ∧ s.irq = false ∧
  (∀ i, s.cmRead i = Config.cmLaunch s.launch i) ∧ (∀ a, s.omRead a = Config.omLaunch s.launch a)

/-! ## Good states -/

/-- Every set `x` and `k` register holds a value that fits (10_state.md R21, R33). -/
def RegistersFit (s : State) : Prop :=
  (∀ i v, s.x.get i = some v → Fits s v) ∧ (∀ j v, s.k.get j = some v → Fits s v)

/-- `EKIND` and `EPC` read 0 unless `STATUS = ERROR`, which has a kind recorded, never `Encoding`
(10_state.md R29, 60_exceptions.md R237). -/
def FaultRecordOk (s : State) : Prop :=
  (s.status = .error → ∃ K, s.ekind = some K ∧ K ≠ .encoding) ∧
  (s.status ≠ .error → s.ekind = none ∧ s.epc = 0)

/-- A key generation is in progress only while the engine runs, at the command that is being carried
out; the prime it holds is one that a pass of that command's loop accepted, on draws before the source's
present place (log 4; 45_rsa.md R199). -/
def WorkOk (s : State) : Prop :=
  ∀ p, s.work = some p → s.status = .running ∧
    ∃ w imm, s.fetch = some w ∧ (decode w = .ok (.keygen imm) ∨ decode w = .ok (.keygenc imm)) ∧
      badKeyBits imm.toNat = false ∧ AcceptedBefore imm.toNat p s.rng

/-- The invariant of the machine. -/
def Inv (s : State) : Prop := s.memWf = true ∧ RegistersFit s ∧ FaultRecordOk s ∧ WorkOk s

/-- A safe state: no fault is recorded. -/
def Safe (s : State) : Prop := s.status ≠ .error

end Sys2Proof.Machine
end

