-- ==== Sys2Proof/Certificates/Slice0/Obligations.lean ====
section
/-! DEFINITION. The statements about the model, for the provers.  Numbers, grades and citations stand in
OBLIGATIONS.json.  `v / 2 ^ i % 2` on integers is `bit(v, i)` of 00_scope.md R13: division by a
positive number is the floor, `%` the least non-negative residue. -/

open Sys2Proof Sys2Proof.Machine

/-! ## Encoding -/

/-- 30_encoding.md R76, R78: a legal command's word decodes back to it, with every operand. -/
def Obligations.EveryCommandDecodesBackFromItsWord : Prop :=
  ∀ i : Instr, i.wf = true → decode (encode i) = .ok i

/-- 30_encoding.md R76: what decodes is a legal command, and the word is that command's only word. -/
def Obligations.EveryLegalWordIsItsCommandsOnlyWord : Prop :=
  ∀ (w : Word) (i : Instr), decode w = .ok i → i.wf = true ∧ encode i = w

/-- 30_encoding.md R78: a word matches a row of the opcode table iff it decodes to a command of that
mnemonic; a word no row matches is illegal; at most one row matches any word. -/
def Obligations.OpcodeTableReadsAsTheDecoder : Prop :=
  ∀ w : Word,
    (∀ r ∈ opcodeTable, r.hits w = true ↔ ∃ i, decode w = .ok i ∧ i.mnemonic = r.mnemonic) ∧
    ((∀ r ∈ opcodeTable, r.hits w = false) → ∃ e, decode w = .error e) ∧
    (∀ r₁ ∈ opcodeTable, ∀ r₂ ∈ opcodeTable, r₁.hits w = true → r₂.hits w = true → r₁ = r₂)

/-- 30_encoding.md R85: the spec's example words, and the assembler on the same lines (R81; log 21). -/
def Obligations.SpecExampleWordsDecode : Prop :=
  decode 0x01000000 = .ok .halt ∧ decode 0x10100007 = .ok (.li 1 7) ∧
  decode 0x12312000 = .ok (.add 3 1 2) ∧ decode 0x20412300 = .ok (.modpow 4 1 2 3) ∧
  decode 0x19012000 = .ok (.cmp 1 2) ∧ decode 0x03300009 = .ok (.beq 9) ∧
  decode 0x06300004 = .ok (.csrwi .len 4) ∧ decode 0x05050003 = .ok (.csrw .len 5) ∧
  decode 0x60020004 = .ok (.kput 4 2) ∧ decode 0x42040000 = .ok (.i2osp 4) ∧
  decode 0x43400000 = .ok (.os2ip 4) ∧ (∃ e, decode 0x12312001 = .error e) ∧
  (∃ e, decode 0x00000000 = .error e) ∧
  Asm.assemble 0 "HALT\nLI b1, 7\nADD b3, b1, b2\nMODPOW b4, b1, b2, b3\nCMP b1, b2\nBEQ 9\nCSRWI LEN, 4" =
    some [0x01000000, 0x10100007, 0x12312000, 0x20412300, 0x19012000, 0x03300009, 0x06300004] ∧
  Asm.assemble 0 "CSRW LEN, b5\nKPUT k4, b2\nI2OSP b4\nOS2IP b4" =
    some [0x05050003, 0x60020004, 0x42040000, 0x43400000]

/-! ## The step and the host -/

/-- 46_control.md R215: with the engine running and the host not moving, a step is the meaning of the
command `pc` points at (the host's `wait` move is only taken off the list; log 6). -/
def Obligations.StepRunsTheDecodedCommand : Prop :=
  ∀ (s : State) (i : Instr), s.status = .running → s.pc.toNat < s.par.cmSize →
    decode (s.cmRead s.pc.toNat) = .ok i →
    (s.host = [] → step s = exec i s) ∧
    (∀ rest, s.host = .wait :: rest → step s = exec i { s with host := rest })

/-- 20_memory.md R52, 30_encoding.md R77: a fetch outside command memory takes `FetchFault`, a word
that is no legal command takes `IllegalCommand`, and nothing else happens; the all-zero and the
all-ones word are such words. -/
def Obligations.FetchAndDecodeFaultsAreTaken : Prop :=
  (∀ s : State, s.status = .running → s.host = [] → s.par.cmSize ≤ s.pc.toNat →
    step s = .next { s with ekind := some .fetchFault, epc := s.pc, status := .error }) ∧
  (∀ (s : State) (e : Reject), s.status = .running → s.host = [] → s.pc.toNat < s.par.cmSize →
    decode (s.cmRead s.pc.toNat) = .error e →
    step s = .next { s with ekind := some .illegalCommand, epc := s.pc, status := .error }) ∧
  (∃ e, decode 0x00000000 = .error e) ∧ (∃ e, decode 0xFFFFFFFF = .error e)

/-- 20_memory.md R60: a pending host move is the next step, on its own, between two commands (log 6); a
cell or byte the memory does not have is no move (log 7); 20_memory.md R66: the CSRs are read in any
state, `IE` is written in any state.  That the value read is kept in `hostReply` is the model's choice
(log 8). -/
def Obligations.HostMoveIsTheNextStep : Prop :=
  (∀ (s : State) (m : HostMove) (rest : List HostMove), s.host = m :: rest → m ≠ .wait →
    step s = State.hostMove { s with host := rest } m) ∧
  (∀ (s : State) (j : BitVec 16) (w : Word) (b : Byte),
    (s.par.cmSize ≤ j.toNat → s.hostMove (.writeCM j w) = .fault .noSuchCell ∧
      s.hostMove (.readCM j) = .fault .noSuchCell) ∧
    (s.par.omSize ≤ j.toNat → s.hostMove (.writeOM j b) = .fault .noSuchCell ∧
      s.hostMove (.readOM j) = .fault .noSuchCell)) ∧
  (∀ (s : State) (c : Csr) (v : BitVec 2),
    s.hostMove (.readCSR c) = .next { s with hostReply := some (s.csrValue c) } ∧
    s.hostMove (.writeIE v) = .next { s with ie := v })

/-- 20_memory.md R63, R64: what `HostStart` and `HostClear` do in each state. -/
def Obligations.HostStartAndHostClear : Prop :=
  ∀ (s : State) (e : BitVec 16),
    (s.status = .idle → s.hostMove (.start e) = .next { s with pc := e, status := .running }) ∧
    (s.status ≠ .idle → s.hostMove (.start e) = .next s) ∧
    (s.status = .done ∨ s.status = .error →
      s.hostMove .clear = .next { s with status := .idle, ekind := none, epc := 0 } ∧
      State.irq { s with status := .idle, ekind := none, epc := 0 } = false) ∧
    (s.status = .idle ∨ s.status = .running → s.hostMove .clear = .next s)

/-- 20_memory.md R61, R62: what the host's memory operations do in each state.  That the unspecified value
of a read while running is kept in `hostReply`, and counted in `freeReads`, is the model's choice
(log 8). -/
def Obligations.HostMemoryOperations : Prop :=
  ∀ (s : State) (j : BitVec 16) (w : Word) (b : Byte),
    (j.toNat < s.par.cmSize →
      (s.status ≠ .running →
        (∃ t, s.hostMove (.writeCM j w) = .next t ∧ t = { s with cm := t.cm } ∧
          t.cmRead j.toNat = w ∧ ∀ k, k ≠ j.toNat → t.cmRead k = s.cmRead k) ∧
        s.hostMove (.readCM j) = .next { s with hostReply := some (s.cmRead j.toNat).toNat }) ∧
      (s.status = .running → s.hostMove (.writeCM j w) = .next s ∧
        ∃ v : Word, s.hostMove (.readCM j) =
          .next { s with hostReply := some v.toNat, freeReads := s.freeReads + 1 })) ∧
    (j.toNat < s.par.omSize →
      (s.status ≠ .running →
        (∃ t, s.hostMove (.writeOM j b) = .next t ∧ t = { s with om := t.om } ∧
          t.omRead j.toNat = b ∧ ∀ k, k ≠ j.toNat → t.omRead k = s.omRead k) ∧
        s.hostMove (.readOM j) = .next { s with hostReply := some (s.omRead j.toNat).toNat }) ∧
      (s.status = .running → s.hostMove (.writeOM j b) = .next s ∧
        ∃ v : Byte, s.hostMove (.readOM j) =
          .next { s with hostReply := some v.toNat, freeReads := s.freeReads + 1 }))

/-- 10_state.md R41, 20_memory.md R65: the table of reset values, after power-on and after `HostReset` in
any state.  The memories read as the next launch's free values (log 2), and the parameters, the
random source and the host stay (log 1, log 3, log 6). -/
def Obligations.ResetGivesTheResetTable : Prop :=
  (∀ s : State, ∃ t, s.hostMove .reset = .next t ∧ ResetTable t ∧
    t.par = s.par ∧ t.rng = s.rng ∧ t.launch = s.launch + 1) ∧
  ResetTable State.reset

/-- 10_state.md R40: `IRQ` is a level, a pure function of `STATUS` and `IE`. -/
def Obligations.InterruptRequestIsALevel : Prop :=
  ∀ s : State, s.irq = true ↔
    (s.status = .done ∧ s.ie.getLsbD 0 = true) ∨ (s.status = .error ∧ s.ie.getLsbD 1 = true)

/-! ## Invariants and whole-machine rules -/

/-- The reset state meets the invariant of the machine (10_state.md R41). -/
def Obligations.ResetMeetsTheInvariant : Prop := Inv State.reset

/-- Every step keeps it: the memories in canonical form inside their sizes, every register's value fitting
(10_state.md R21), `EKIND` and `EPC` zero unless a fault is recorded (10_state.md R29), and a key
generation in progress only at its command, holding a prime its loop accepted (log 4). -/
def Obligations.EveryStepKeepsTheInvariant : Prop :=
  ∀ s t : State, Inv s → step s = .next t → Inv t

/-- 10_state.md R24, 46_control.md R224: `pc` after a command.  A generator whose retry loop has not
ended leaves `pc` where it is and moves only the random source and its own progress (log 4). -/
def Obligations.PointerAfterACommand : Prop :=
  ∀ (i : Instr) (s t : State), s.par.wf = true → s.status = .running →
    s.pc.toNat < s.par.cmSize → exec i s = .next t →
    (t.status = .error ∨ i = .halt → t.pc = s.pc) ∧
    (∀ a, branchOutcome s i = some (a, true) → t.pc = a) ∧
    (t.status ≠ .error → i ≠ .halt → (∀ a, branchOutcome s i ≠ some (a, true)) →
      t.pc.toNat = s.pc.toNat + 1 ∨
      (isGenerator i = true ∧ t = { s with rng := t.rng, work := t.work }))

/-- 10_state.md R27: the only changes of `STATUS` in one step, with their causes; and outside `RUNNING` the
engine takes no step (46_control.md R215; log 5). -/
def Obligations.StatusTransitions : Prop :=
  (∀ s t : State, step s = .next t → t.status ≠ s.status →
    (∃ e rest, s.host = .start e :: rest ∧ s.status = .idle ∧ t.status = .running) ∨
    (∃ rest, s.host = .clear :: rest ∧ (s.status = .done ∨ s.status = .error) ∧ t.status = .idle) ∨
    (∃ rest, s.host = .reset :: rest ∧ t.status = .idle) ∨
    ((s.host = [] ∨ ∃ rest, s.host = .wait :: rest) ∧ s.status = .running ∧
      ((t.status = .done ∧ s.fetch = some (encode .halt)) ∨ (t.status = .error ∧ t.ekind ≠ none)))) ∧
  (∀ s : State, s.status ≠ .running → s.host = [] → step s = .next s)

/-- 70_reset_and_hazards.md R275: in every state every command ends in a next state (a completed command, a fault
taken, or a generator still in progress; log 4, log 15). -/
def Obligations.EveryCommandAnswersANextState : Prop :=
  ∀ (i : Instr) (s : State), ∃ t, exec i s = .next t

/-- 60_exceptions.md R242, R243: a command that faults has written `EKIND`, `EPC` and `STATUS` and nothing
else of the engine; only a generator's random draws stay. -/
def Obligations.FaultsArePrecise : Prop :=
  ∀ (i : Instr) (s t : State), s.status = .running → exec i s = .next t → t.status = .error →
    (∃ K, t = { s with
      ekind := some K, epc := s.pc, status := .error, rng := t.rng, work := t.work }) ∧
    (isGenerator i = false → t.rng = s.rng ∧ t.work = s.work)

/-- 60_exceptions.md R237, R238, R239: which commands may raise which kind, and the state each of the
spec's own kinds needs. -/
def Obligations.FaultKindsByCommand : Prop :=
  ∀ (i : Instr) (s t : State) (K : FaultKind), s.status = .running → exec i s = .next t →
    t.status = .error → t.ekind = some K →
    match K with
    | .badParameter => mayRaiseBadParameter i = true
    | .encoding => False
    | .decryption => s.kform = .crtKey ∧ ∃ rd ra, i = .rsadp rd ra
    | .signature => ∃ rd ra, i = .rsavp1 rd ra
    | .illegalCommand => i.wf = false
    | .capacityFault => ∃ c, s.par.capBits = some c
    | .octetAccess => accessesOctets i = true
    | .unsetRegister => (∃ r ∈ sourcesOf i, s.x.get r = none) ∨
        ∃ j, s.k.get j = none ∧ ∃ rd ra, i = .kget rd j ∨ i = .rsaep rd ra ∨ i = .rsavp1 rd ra ∨
          i = .rsadp rd ra ∨ i = .rsasp1 rd ra
    | .fetchFault => False

/-- 60_exceptions.md R239, R241: a legal command with an unset source `x` register takes
`UnsetRegister`, before any other check of its own. -/
def Obligations.UnsetSourcesFault : Prop :=
  ∀ (i : Instr) (s : State), i.wf = true → (∃ r ∈ sourcesOf i, s.x.get r = none) →
    Faults i s .unsetRegister

/-- 20_memory.md R53: no command writes command memory; a step that changes a cell is a host's write while
the engine is not running, or a reset, after which the cells are unspecified (20_memory.md R65). -/
def Obligations.CommandMemoryIsTheHosts : Prop :=
  (∀ (i : Instr) (s t : State), exec i s = .next t → ∀ j, t.cmRead j = s.cmRead j) ∧
  (∀ s t : State, step s = .next t → (∃ j, t.cmRead j ≠ s.cmRead j) →
    ∃ m rest, s.host = m :: rest ∧ (m = .reset ∨ (s.status ≠ .running ∧ ∃ j w, m = .writeCM j w)))

/-- 10_state.md R25: which commands write a flag, and which flags they leave. -/
def Obligations.FlagsHaveTheirWriters : Prop :=
  ∀ (i : Instr) (s t : State), exec i s = .next t → t.flags ≠ s.flags →
    (∃ ra rb, i = .cmp ra rb ∧ t.flags.getLsbD 0 = s.flags.getLsbD 0) ∨
    (∃ ra n, (i = .testbit ra n ∨ i = .ptest ra n) ∧
      t.flags.getLsbD 1 = s.flags.getLsbD 1 ∧ t.flags.getLsbD 2 = s.flags.getLsbD 2) ∨
    (∃ ra, i = .csrw .flags ra) ∨ (∃ v, i = .csrwi .flags v)

/-- 10_state.md R22, R23, R34: a command changes no `x` register but its destination and un-sets none;
key registers change only by `KPUT` (its one register), `KEYGEN` and `KEYGENC`, and only `KEYGEN`
un-sets one, of `k[4..8]`. -/
def Obligations.RegistersHaveTheirWriters : Prop :=
  ∀ (i : Instr) (s t : State), exec i s = .next t →
    (∀ r, t.x.get r ≠ s.x.get r → destOf i = some r) ∧
    (∀ r, s.x.get r ≠ none → t.x.get r ≠ none) ∧
    (∀ j, t.k.get j ≠ s.k.get j → (∃ ra, i = .kput j ra) ∨ ∃ n, i = .keygen n ∨ i = .keygenc n) ∧
    (∀ j, s.k.get j ≠ none → t.k.get j = none → 4 ≤ j ∧ ∃ n, i = .keygen n)

/-- 10_state.md R28 to R31, R38: which commands write `PTR`, `LEN`, `KFORM`, `IE`, `STATUS`, `EKIND`,
`EPC`, and which use the random source; the parameters, the launch and the host no command touches
(the fields are the model's own: log 1, log 2, log 6, log 8). -/
def Obligations.ControlRegistersHaveTheirWriters : Prop :=
  ∀ (i : Instr) (s t : State), exec i s = .next t →
    (t.ptr ≠ s.ptr → (∃ ra, i = .csrw .ptr ra) ∨ ∃ v, i = .csrwi .ptr v) ∧
    (t.len ≠ s.len → (∃ ra, i = .csrw .len ra) ∨ (∃ v, i = .csrwi .len v) ∨ ∃ ra, i = .enc ra) ∧
    (t.kform ≠ s.kform → (∃ ra, i = .csrw .kform ra) ∨ (∃ v, i = .csrwi .kform v) ∨
      ∃ n, i = .keygen n ∨ i = .keygenc n) ∧
    (t.ie ≠ s.ie → (∃ ra, i = .csrw .ie ra) ∨ ∃ v, i = .csrwi .ie v) ∧
    (t.status ≠ s.status → i = .halt ∨ t.status = .error) ∧
    (t.ekind ≠ s.ekind ∨ t.epc ≠ s.epc → t.status = .error) ∧
    (t.rng ≠ s.rng → isGenerator i = true ∨ ∃ ra n, i = .ptest ra n) ∧
    t.par = s.par ∧ t.launch = s.launch ∧ t.host = s.host ∧ t.hostReply = s.hostReply ∧
    t.freeReads = s.freeReads

/-- 20_memory.md R51: the only bytes a command changes are those of one string at `PTR`, of
`floor(bitlen(v)/8) + 1` bytes for `ENC` of `v` and of `LEN` bytes for `I2OSP`. -/
def Obligations.OctetMemoryHasItsWriters : Prop :=
  ∀ (i : Instr) (s t : State), exec i s = .next t → ∀ a, t.omRead a ≠ s.omRead a →
    s.ptr.toNat ≤ a ∧
    ((∃ ra v, i = .enc ra ∧ s.x.get ra = some v ∧ a < s.ptr.toNat + (Nat.size v.toNat / 8 + 1)) ∨
      ∃ ra, i = .i2osp ra ∧ a < s.ptr.toNat + s.len.toNat)

/-! ## Control commands -/

/-- 46_control.md R216, R217: `HALT` sets `STATUS` to `DONE` and nothing else, after which the engine takes
no step and `IRQ` is `IE[0]`; `NOP` moves `pc` and nothing else; their words. -/
def Obligations.HaltAndNop : Prop :=
  (∀ s : State, exec .halt s = .next { s with status := .done } ∧
    State.irq { s with status := .done } = s.ie.getLsbD 0 ∧
    (s.host = [] → step { s with status := .done } = .next { s with status := .done }) ∧
    exec .nop s = .next { s with pc := s.pc + 1 }) ∧
  encode .halt = 0x01000000 ∧ encode .nop = 0x02000000

/-- 46_control.md R218, R219: each of the seven branches goes to its absolute target when its condition
holds and to the next command when not, and changes nothing else. -/
def Obligations.BranchesGoWhereTheirConditionSays : Prop :=
  ∀ (s : State) (a : Imm),
    exec (.br a) s = .next { s with pc := a } ∧
    exec (.bt a) s = .next { s with pc := if s.flags.getLsbD 0 then a else s.pc + 1 } ∧
    exec (.bf a) s = .next { s with pc := if s.flags.getLsbD 0 then s.pc + 1 else a } ∧
    exec (.beq a) s = .next { s with pc := if s.flags.getLsbD 1 then a else s.pc + 1 } ∧
    exec (.bne a) s = .next { s with pc := if s.flags.getLsbD 1 then s.pc + 1 else a } ∧
    exec (.blt a) s = .next { s with pc := if s.flags.getLsbD 2 then a else s.pc + 1 } ∧
    exec (.bge a) s = .next { s with pc := if s.flags.getLsbD 2 then s.pc + 1 else a }

/-- 46_control.md R220: `CSRR` of each of the eleven registers, with the code numbers of 10_state.md R27,
R30 and 60_exceptions.md R236. -/
def Obligations.CsrReads : Prop :=
  (∀ (s : State) (rd : XReg),
    EndsWriting (.csrr rd .status) s rd s.status.code ∧
    EndsWriting (.csrr rd .flags) s rd ((s.flags.getLsbD 0).toNat + 2 * (s.flags.getLsbD 1).toNat +
      4 * (s.flags.getLsbD 2).toNat : Nat) ∧
    EndsWriting (.csrr rd .ptr) s rd s.ptr.toNat ∧ EndsWriting (.csrr rd .len) s rd s.len.toNat ∧
    (s.ekind = none → EndsWriting (.csrr rd .ekind) s rd 0) ∧
    (∀ K, s.ekind = some K → EndsWriting (.csrr rd .ekind) s rd K.code) ∧
    EndsWriting (.csrr rd .epc) s rd s.epc.toNat ∧ EndsWriting (.csrr rd .kform) s rd s.kform.code ∧
    EndsWriting (.csrr rd .ie) s rd s.ie.toNat ∧
    (s.par.capBits = none → EndsWriting (.csrr rd .capbits) s rd 0) ∧
    (∀ c, s.par.capBits = some c → EndsWriting (.csrr rd .capbits) s rd c) ∧
    EndsWriting (.csrr rd .omsize) s rd s.par.omSize ∧
    EndsWriting (.csrr rd .cmsize) s rd s.par.cmSize) ∧
  [RunState.idle, .running, .done, .error].map RunState.code = [0, 1, 2, 3] ∧
  [KForm.noKey, .modKey, .crtKey].map KForm.code = [0, 1, 2] ∧
  [FaultKind.badParameter, .encoding, .decryption, .signature, .illegalCommand, .capacityFault,
    .octetAccess, .unsetRegister, .fetchFault].map FaultKind.code = [1, 2, 3, 4, 5, 6, 7, 8, 9]

/-- 46_control.md R221, R222: a CSR write stores exactly the value or takes `BadParameter`, from a
register and from the immediate. -/
def Obligations.CsrWrites : Prop :=
  ∀ (s : State) (c : Csr) (ra : XReg) (v : Int) (imm : Imm),
    (s.x.get ra = some v → WritesCsr (.csrw c ra) s v c) ∧
    WritesCsr (.csrwi c imm) s imm.toNat c

/-! ## Moves and integer arithmetic -/

/-- 40_arith.md R91, R92, 45_rsa.md R187, R188: `LI`, `MOV`, `KPUT`, `KGET`. -/
def Obligations.Moves : Prop :=
  ∀ (s : State) (rd ra : XReg) (j : KReg) (imm : Imm),
    EndsWriting (.li rd imm) s rd imm.toNat ∧
    (∀ v, s.x.get ra = some v → EndsWriting (.mov rd ra) s rd v) ∧
    (∀ v, s.x.get ra = some v →
      (Fits s v → exec (.kput j ra) s = .next { s with k := s.k.set j (some v), pc := s.pc + 1 }) ∧
      (¬ Fits s v → Faults (.kput j ra) s .capacityFault)) ∧
    (∀ v, s.k.get j = some v → EndsWriting (.kget rd j) s rd v) ∧
    (s.k.get j = none → Faults (.kget rd j) s .unsetRegister)

/-- 40_arith.md R93, R94, R95, R98, R99, R101: `ADD`, `SUB`, `MUL`, `GCD`, `POW` give the exact integer or
take `CapacityFault`. -/
def Obligations.ExactArithmetic : Prop :=
  ∀ (s : State) (rd ra rb : XReg) (a b : Int) (imm : Imm),
    s.x.get ra = some a → s.x.get rb = some b →
    EndsWriting (.add rd ra rb) s rd (a + b) ∧ EndsWriting (.sub rd ra rb) s rd (a - b) ∧
    EndsWriting (.mul rd ra rb) s rd (a * b) ∧ EndsWriting (.gcd rd ra rb) s rd (Int.gcd a b) ∧
    EndsWriting (.pow rd ra imm) s rd (a ^ imm.toNat)

/-- 40_arith.md R96, R97: `DIV` truncates toward zero and `MOD` gives the least non-negative residue; each
refuses its divisors; neither result can fail to fit in a good state. -/
def Obligations.DivisionAndResidue : Prop :=
  ∀ (s : State) (rd ra rb : XReg) (a b : Int), s.x.get ra = some a → s.x.get rb = some b →
    (b = 0 → Faults (.div rd ra rb) s .badParameter) ∧
    (b ≠ 0 → ∃ q, q.natAbs = a.natAbs / b.natAbs ∧ 0 ≤ q * (a * b) ∧
      EndsWriting (.div rd ra rb) s rd q ∧ (RegistersFit s → Fits s q)) ∧
    (b ≤ 0 → Faults (.mod rd ra rb) s .badParameter) ∧
    (0 < b → ∃ r, 0 ≤ r ∧ r < b ∧ b ∣ a - r ∧ EndsWriting (.mod rd ra rb) s rd r ∧
      (RegistersFit s → Fits s r))

/-- 40_arith.md R100, 42_bits.md R137: `CMP` writes `Z` and `N` and leaves `T`; `TESTBIT` writes `T` and leaves
`Z` and `N`; neither writes anything else. -/
def Obligations.CompareAndTestBit : Prop :=
  ∀ (s : State) (ra rb : XReg) (a b : Int) (imm : Imm),
    s.x.get ra = some a → s.x.get rb = some b →
    (∃ f : BitVec 3, f.getLsbD 0 = s.flags.getLsbD 0 ∧ f.getLsbD 1 = decide (a = b) ∧
      f.getLsbD 2 = decide (a < b) ∧
      exec (.cmp ra rb) s = .next { s with flags := f, pc := s.pc + 1 }) ∧
    EndsSettingT (.testbit ra imm) s (decide (a / 2 ^ imm.toNat % 2 = 1)) s.rng

/-! ## Modular commands -/

/-- 41_modular.md R111, R112: `MODPOW` on every base, exponent and modulus. -/
def Obligations.ModularPower : Prop :=
  ∀ (s : State) (rd ra rb rc : XReg) (b e m : Int), s.x.get ra = some b → s.x.get rb = some e →
    s.x.get rc = some m → EndsWithPower (.modpow rd ra rb rc) s rd b e m

/-- 41_modular.md R114, R115: `MODINV` gives the one inverse in range, or takes `BadParameter`. -/
def Obligations.ModularInverse : Prop :=
  ∀ (s : State) (rd ra rb : XReg) (a n : Int), s.x.get ra = some a → s.x.get rb = some n →
    (n ≤ 0 ∨ Int.gcd a n ≠ 1 → Faults (.modinv rd ra rb) s .badParameter) ∧
    (0 < n → Int.gcd a n = 1 →
      ∃ t, 0 ≤ t ∧ t < n ∧ a * t % n = 1 % n ∧ EndsWriting (.modinv rd ra rb) s rd t)

/-- 41_modular.md R118, R119: `MONTMUL` gives the Montgomery product for the radix `2^maglen(n)`, or takes
`BadParameter`. -/
def Obligations.MontgomeryProduct : Prop :=
  ∀ (s : State) (rd ra rb rc : XReg) (a b n : Int), s.x.get ra = some a → s.x.get rb = some b →
    s.x.get rc = some n →
    (n ≤ 0 ∨ n % 2 = 0 ∨ a < 0 ∨ n ≤ a ∨ b < 0 ∨ n ≤ b →
      Faults (.montmul rd ra rb rc) s .badParameter) ∧
    (0 < n → n % 2 = 1 → 0 ≤ a → a < n → 0 ≤ b → b < n →
      ∃ t, 0 ≤ t ∧ t < n ∧ t * 2 ^ Nat.size n.toNat % n = a * b % n ∧
        EndsWriting (.montmul rd ra rb rc) s rd t)

/-- 41_modular.md R121, R122: `BMU` gives the Barrett constant, `BRED` the residue on its domain. -/
def Obligations.BarrettConstantAndReduction : Prop :=
  ∀ (s : State) (rd ra rb : XReg) (v m : Int), s.x.get ra = some v → s.x.get rb = some m →
    (m ≤ 0 → Faults (.bmu rd rb) s .badParameter) ∧
    (0 < m → EndsWriting (.bmu rd rb) s rd (4 ^ Nat.size m.toNat / m)) ∧
    (m ≤ 0 ∨ v < 0 ∨ 4 ^ Nat.size m.toNat ≤ v → Faults (.bred rd ra rb) s .badParameter) ∧
    (0 < m → 0 ≤ v → v < 4 ^ Nat.size m.toNat → EndsWriting (.bred rd ra rb) s rd (v % m))

/-! ## Bit commands -/

/-- 42_bits.md R131, R132, R136, R138, R139: `SHL`, `SHR`, `NOT`, `SETBIT`, `BITLEN`. -/
def Obligations.ShiftsAndBits : Prop :=
  ∀ (s : State) (rd ra : XReg) (a : Int) (imm : Imm), s.x.get ra = some a →
    EndsWriting (.shl rd ra imm) s rd (a * 2 ^ imm.toNat) ∧
    EndsWriting (.shr rd ra imm) s rd (a / 2 ^ imm.toNat) ∧
    EndsWriting (.not rd ra) s rd (-a - 1) ∧
    EndsWriting (.setbit rd ra imm) s rd
      (if a / 2 ^ imm.toNat % 2 = 1 then a else a + 2 ^ imm.toNat) ∧
    EndsWriting (.bitlen rd ra) s rd
      (if 0 ≤ a then Nat.size a.toNat else Nat.size (-a - 1).toNat : Nat)

/-- 42_bits.md R133, R134, R135: `AND`, `OR`, `XOR` bit by bit on the infinite two's-complement
readings. -/
def Obligations.BitwiseLogic : Prop :=
  ∀ (s : State) (rd ra rb : XReg) (a b : Int), s.x.get ra = some a → s.x.get rb = some b →
    (∃ r, (∀ i : Nat, r / 2 ^ i % 2 = (a / 2 ^ i % 2) * (b / 2 ^ i % 2)) ∧
      EndsWriting (.and rd ra rb) s rd r) ∧
    (∃ r, (∀ i : Nat, r / 2 ^ i % 2 = max (a / 2 ^ i % 2) (b / 2 ^ i % 2)) ∧
      EndsWriting (.or rd ra rb) s rd r) ∧
    (∃ r, (∀ i : Nat, r / 2 ^ i % 2 = (a / 2 ^ i % 2 + b / 2 ^ i % 2) % 2) ∧
      EndsWriting (.xor rd ra rb) s rd r)

/-- 42_bits.md R140: every bit sequence that is constant from some place on is the reading of exactly
one integer, constant from `maglen` on with the sign's bit; the four operations act bit by bit; and the
consequences the rule lists. -/
def Obligations.TwosComplementReading : Prop :=
  (∀ (f : Nat → Bool) (n : Nat) (c : Bool), (∀ i, n ≤ i → f i = c) →
    ∃ v, (∀ i, bitAt v i = if f i then 1 else 0) ∧
      ∀ u, (∀ i, bitAt u i = if f i then 1 else 0) → u = v) ∧
  (∀ (v : Int) (i : Nat), maglen v ≤ i → bitAt v i = if 0 ≤ v then 0 else 1) ∧
  (∀ (a b : Int) (i : Nat), bitAt (bitAnd a b) i = bitAt a i * bitAt b i ∧
    bitAt (bitOr a b) i = max (bitAt a i) (bitAt b i) ∧
    bitAt (bitXor a b) i = (bitAt a i + bitAt b i) % 2 ∧ bitAt (bitNot a) i = 1 - bitAt a i) ∧
  (∀ a b : Int, bitNot a = -a - 1 ∧ (0 ≤ bitAnd a b ↔ 0 ≤ a ∨ 0 ≤ b) ∧
    (bitOr a b < 0 ↔ a < 0 ∨ b < 0) ∧ (bitXor a b < 0 ↔ (a < 0) ≠ (b < 0)) ∧
    bitXor a (-1) = bitNot a ∧ bitAnd a (-1) = a ∧ bitOr a 0 = a ∧
    a + b = bitXor a b + 2 * bitAnd a b) ∧
  (∀ a b : Nat, bitAnd a b = (a &&& b : Nat) ∧ bitOr a b = (a ||| b : Nat) ∧
    bitXor a b = (a ^^^ b : Nat))

/-! ## Octet commands -/

/-- 43_octets.md R151: `ENC` stores the sign-safe encoding at `PTR` and its length in `LEN`, changes no other
byte, and refuses a negative value and a string that does not fit in octet memory. -/
def Obligations.EncStoresTheCanonicalEncoding : Prop :=
  ∀ (s : State) (ra : XReg) (v : Int), s.par.wf = true →
    (s.x.get ra = none → Faults (.enc ra) s .unsetRegister) ∧ (s.x.get ra = some v →
    (v < 0 → Faults (.enc ra) s .badParameter) ∧
    (0 ≤ v → s.par.omSize < s.ptr.toNat + (Nat.size v.toNat / 8 + 1) →
      Faults (.enc ra) s .octetAccess) ∧
    (0 ≤ v → s.ptr.toNat + (Nat.size v.toNat / 8 + 1) ≤ s.par.omSize →
      ∃ t, exec (.enc ra) s = .next t ∧ t = { s with om := t.om, len := t.len, pc := s.pc + 1 } ∧
        t.len.toNat = Nat.size v.toNat / 8 + 1 ∧ bigEndianAt t s.ptr.toNat t.len.toNat = v ∧
        (t.omRead s.ptr.toNat).toNat < 128 ∧ SameOutside s t s.ptr.toNat (Nat.size v.toNat / 8 + 1)))

/-- 43_octets.md R153: `I2OSP` stores exactly `LEN` bytes at `PTR`, changes no other byte, and makes its
value checks before its bounds check. -/
def Obligations.I2ospStoresExactlyLenBytes : Prop :=
  ∀ (s : State) (ra : XReg) (v : Int),
    (s.x.get ra = none → Faults (.i2osp ra) s .unsetRegister) ∧ (s.x.get ra = some v →
    (v < 0 ∨ 256 ^ s.len.toNat ≤ v → Faults (.i2osp ra) s .badParameter) ∧
    (0 ≤ v → v < 256 ^ s.len.toNat → s.par.omSize < s.ptr.toNat + s.len.toNat →
      Faults (.i2osp ra) s .octetAccess) ∧
    (0 ≤ v → v < 256 ^ s.len.toNat → s.ptr.toNat + s.len.toNat ≤ s.par.omSize →
      ∃ t, exec (.i2osp ra) s = .next t ∧ t = { s with om := t.om, pc := s.pc + 1 } ∧
        bigEndianAt t s.ptr.toNat s.len.toNat = v ∧ SameOutside s t s.ptr.toNat s.len.toNat))

/-- 43_octets.md R152, R154: `OS2IP` loads the unsigned and `DEC` the two's-complement integer of the `LEN`
bytes at `PTR`. -/
def Obligations.LoadsReadTheString : Prop :=
  ∀ (s : State) (rd : XReg),
    (s.par.omSize < s.ptr.toNat + s.len.toNat →
      Faults (.os2ip rd) s .octetAccess ∧ Faults (.dec rd) s .octetAccess) ∧
    (s.ptr.toNat + s.len.toNat ≤ s.par.omSize →
      EndsWriting (.os2ip rd) s rd (bigEndianAt s s.ptr.toNat s.len.toNat) ∧
      EndsWriting (.dec rd) s rd (twosComplementAt s s.ptr.toNat s.len.toNat))

/-- 43_octets.md R155 (a) to (d): what a store left, a load reads back; what a load read, a store puts
back. -/
def Obligations.OctetRoundTrips : Prop :=
  ∀ (s t : State) (rd ra : XReg), s.status = .running → t.status ≠ .error →
    (exec (.i2osp ra) s = .next t →
      ∃ v, s.x.get ra = some v ∧ EndsWriting (.os2ip rd) t rd v) ∧
    (exec (.os2ip rd) s = .next t →
      ∃ u, exec (.i2osp rd) t = .next u ∧ u.status ≠ .error ∧ ∀ a, u.omRead a = s.omRead a) ∧
    (s.par.wf = true → exec (.enc ra) s = .next t →
      ∃ v, s.x.get ra = some v ∧ EndsWriting (.dec rd) t rd v ∧ EndsWriting (.os2ip rd) t rd v)

/-! ## Primes -/

/-- 44_prime.md R167, R169, R176: one request each and its size; the value drawn, as a function of the bytes
answered; the range of the result, and that every value of the range can be drawn.  Where the answers come
from is log 3. -/
def Obligations.DrawsCoverTheirRanges : Prop :=
  (∀ (n : Nat) (g : Rng), 5 ≤ n →
    drawBase n g = (2 + randomValue g ((Nat.size n + 7) / 8) % (n - 3),
      randomNext g ((Nat.size n + 7) / 8)) ∧
    2 ≤ (drawBase n g).1 ∧ (drawBase n g).1 ≤ n - 2 ∧
    ∀ a, 2 ≤ a → a ≤ n - 2 → ∃ answers, (drawBase n ⟨answers, 0, 0⟩).1 = a) ∧
  (∀ (bits : Nat) (g : Rng), 2 ≤ bits →
    (∀ i, (drawCandidate bits g).1.testBit i = true ↔ i = 0 ∨ i = bits - 1 ∨
      (i < bits ∧ (randomValue g ((bits + 7) / 8)).testBit i = true)) ∧
    (drawCandidate bits g).2 = randomNext g ((bits + 7) / 8) ∧
    2 ^ (bits - 1) + 1 ≤ (drawCandidate bits g).1 ∧ (drawCandidate bits g).1 ≤ 2 ^ bits - 1 ∧
    (drawCandidate bits g).1 % 2 = 1 ∧ Nat.size (drawCandidate bits g).1 = bits ∧
    ∀ c, 2 ^ (bits - 1) + 1 ≤ c → c ≤ 2 ^ bits - 1 → c % 2 = 1 →
      ∃ answers, (drawCandidate bits ⟨answers, 0, 0⟩).1 = c)

/-- 44_prime.md R166, R168, R176: for odd `n`, with `n - 1 = 2^s · d` and `d` odd, a base `a` is no witness iff
`a^d` is 1 or one of `a^d, a^(2d), …, a^(2^(s-1)·d)` is `n - 1`, modulo `n`; and the rounds of `MR(n, r)` run
on the bases drawn one after another from the source, one request each of `ceil(bitlen(n)/8)` bytes, and
stop at the first witness.  How the source counts requests and bytes is log 3. -/
def Obligations.RoundsStopAtTheFirstWitness : Prop :=
  (∀ n a s d : Nat, 5 ≤ n → n % 2 = 1 → 2 ≤ a → a ≤ n - 2 → n - 1 = 2 ^ s * d → d % 2 = 1 →
    (mrWitness a n = false ↔ a ^ d % n = 1 ∨ ∃ r, r < s ∧ a ^ (2 ^ r * d) % n = n - 1)) ∧
  (∀ (n r : Nat) (g g' : Rng) (verdict : Bool), 5 ≤ n → millerRabin n r g = (verdict, g') →
    ∃ k bases, drawnBases n k g = (bases, g') ∧ bases.length = k ∧ k ≤ r ∧
      (∀ a ∈ bases, 2 ≤ a ∧ a ≤ n - 2) ∧
      g'.calls = g.calls + k ∧ g'.bytes = g.bytes + k * ((Nat.size n + 7) / 8) ∧
      (verdict = true → k = r ∧ ∀ a ∈ bases, mrWitness a n = false) ∧
      (verdict = false → ∃ before last, bases = before ++ [last] ∧ mrWitness last n = true ∧
        ∀ a ∈ before, mrWitness a n = false))

/-- 44_prime.md R170: the sieve gives the first number from `c` on, in steps of two, that is coprime to
`SP`, that is, divisible by none of the seven small primes. -/
def Obligations.SieveFindsTheNextCoprime : Prop :=
  ∀ c : Nat, ((∃ p ∈ [3, 5, 7, 11, 13, 17, 19], p ∣ c) ↔ Nat.gcd c 4849845 ≠ 1) ∧ c ≤ sieve c ∧ sieve c % 2 = c % 2 ∧
    (∀ p ∈ [3, 5, 7, 11, 13, 17, 19], ¬ p ∣ sieve c) ∧
    ∀ d, c ≤ d → d < sieve c → d % 2 = c % 2 → ∃ p ∈ [3, 5, 7, 11, 13, 17, 19], p ∣ d

/-- 44_prime.md R172: `PTEST` writes `T` and moves the random source, nothing else; no request is made
for values below 5 and even values. -/
def Obligations.PrimalityTest : Prop :=
  ∀ (s : State) (ra : XReg) (n : Int) (imm : Imm), s.x.get ra = some n →
    (imm.toNat = 0 → Faults (.ptest ra imm) s .badParameter) ∧
    (imm.toNat ≠ 0 →
      (n < 2 → EndsSettingT (.ptest ra imm) s false s.rng) ∧
      (n = 2 ∨ n = 3 → EndsSettingT (.ptest ra imm) s true s.rng) ∧
      (4 ≤ n → n % 2 = 0 → EndsSettingT (.ptest ra imm) s false s.rng) ∧
      (5 ≤ n → n % 2 = 1 → EndsSettingT (.ptest ra imm) s
        (millerRabin n.toNat imm.toNat s.rng).1 (millerRabin n.toNat imm.toNat s.rng).2))

/-- 44_prime.md R172: "`T = 0` is always correct": whatever the random source answers, `PTEST` of a prime
sets `T`. -/
def Obligations.PtestNeverRejectsAPrime : Prop :=
  ∀ (s : State) (ra : XReg) (p : Nat) (imm : Imm), s.x.get ra = some (p : Int) → p.Prime →
    imm.toNat ≠ 0 → ∃ g, EndsSettingT (.ptest ra imm) s true g

/-- 44_prime.md R173, R174: `PGEN` and `PGENS` write the value the retry loop returns; while the loop has
not ended only the random source has moved (log 4). -/
def Obligations.PrimeGenerationCommands : Prop :=
  ∀ (s : State) (rd : XReg) (imm : Imm) (p : Option Nat) (g : Rng) (safe : Bool),
    let i : Instr := if safe then .pgens rd imm else .pgen rd imm
    (imm.toNat < 5 → Faults i s .badParameter) ∧
    (5 ≤ imm.toNat → primeGen imm.toNat safe Config.genAttempts s.rng = (p, g) →
      (p = none → exec i s = .next { s with rng := g }) ∧
      ∀ v, p = some v →
        (Fits s v → exec i s = .next { s with x := s.x.set rd (some v), rng := g, pc := s.pc + 1 }) ∧
        (¬ Fits s v → exec i s = .next (faulted { s with rng := g } .capacityFault)))

/-- 44_prime.md R175, 45_rsa.md R199: what holds of a value `PrimeGen` returned, and of a pair `KeyGen`
returned or the first prime it holds, each through the 64 rounds drawn in the call itself; a prime held on
entry was accepted in an earlier step (log 4; the invariant says so).  The source is log 3's. -/
def Obligations.GeneratedValuesKeepTheirPromises : Prop :=
  (∀ (bits f p : Nat) (safe : Bool) (g g' : Rng), 5 ≤ bits →
    primeGen bits safe f g = (some p, g') → ∃ a, LeadsTo g a ∧ AcceptedPass bits safe p a g') ∧
  (∀ (bits f : Nat) (w : Option Nat) (g g' : Rng), 10 ≤ bits → bits % 2 = 0 →
    (∀ p, keyGen bits f w g = (.more (some p), g') → FirstPrime bits w p g g') ∧
    (∀ p q, keyGen bits f w g = (.done p q, g') →
      Nat.size (p * q) = bits ∧ Int.gcd 65537 (((p : Int) - 1) * ((q : Int) - 1)) = 1 ∧
      ∃ h, FirstPrime bits w p g h ∧ AcceptedPass (bits / 2) false q h g'))

/-- 44_prime.md R175: for every `bits ≥ 5` some finite sequence of answers makes `PrimeGen(bits, false)` return in
one pass; and at 10 bits a source that answers `02 11`, `00 00` over and over makes it return in none.  Scripted answers are log 3. -/
def Obligations.PrimeGenerationMayEndAndMayHang : Prop :=
  (∀ bits : Nat, 5 ≤ bits → ∃ answers p g, primeGen bits false 1 ⟨answers, 0, 0⟩ = (some p, g)) ∧
  (∀ f k : Nat, k ≤ f →
    (primeGen 10 false k ⟨(List.replicate f [0x02, 0x11, 0x00, 0x00]).flatten, 0, 0⟩).1 = none)

/-! ## RSA -/

/-- 45_rsa.md R189, R190: `RSAEP` and `RSAVP1` differ in the kind of their range check only. -/
def Obligations.PublicKeyPrimitives : Prop :=
  ∀ (s : State) (rd ra : XReg) (m : Int),
    (s.x.get ra = none → Faults (.rsaep rd ra) s .unsetRegister ∧
      Faults (.rsavp1 rd ra) s .unsetRegister) ∧ (s.x.get ra = some m →
    (s.k.get 0 = none ∨ s.k.get 1 = none →
      Faults (.rsaep rd ra) s .unsetRegister ∧ Faults (.rsavp1 rd ra) s .unsetRegister) ∧
    (∀ n e, s.k.get 0 = some n → s.k.get 1 = some e →
      (m < 0 ∨ n ≤ m → Faults (.rsaep rd ra) s .badParameter ∧ Faults (.rsavp1 rd ra) s .signature) ∧
      (0 ≤ m → m < n →
        EndsWithPower (.rsaep rd ra) s rd m e n ∧ EndsWithPower (.rsavp1 rd ra) s rd m e n)))

/-- 45_rsa.md R191, R192: `RSADP` and `RSASP1` with no key installed, and in the modulus form. -/
def Obligations.PrivateKeyModulusForm : Prop :=
  ∀ (s : State) (rd ra : XReg) (c : Int) (i : Instr), i = .rsadp rd ra ∨ i = .rsasp1 rd ra →
    s.x.get ra = some c →
    (s.kform = .noKey → Faults i s .badParameter) ∧
    (s.kform = .modKey → s.k.get 2 = none ∨ s.k.get 3 = none → Faults i s .unsetRegister) ∧
    (∀ n d, s.kform = .modKey → s.k.get 2 = some n → s.k.get 3 = some d →
      (c < 0 ∨ n ≤ c → Faults i s .badParameter) ∧
      (0 ≤ c → c < n → EndsWithPower i s rd c d n))

/-- 45_rsa.md R193, R194, R195, R197: `RSADP` and `RSASP1` in the CRT form, their range kinds, and the
range of the result, which is not reduced again. -/
def Obligations.PrivateKeyCrtForm : Prop :=
  ∀ (s : State) (rd ra : XReg) (c : Int) (i : Instr) (K : FaultKind),
    (i = .rsadp rd ra ∧ K = .decryption) ∨ (i = .rsasp1 rd ra ∧ K = .badParameter) →
    s.x.get ra = some c → s.kform = .crtKey →
    ((∃ j ∈ [2, 4, 5, 6, 7, 8], s.k.get j = none) → Faults i s .unsetRegister) ∧
    (∀ n p q dP dQ qInv, s.k.get 2 = some n → s.k.get 4 = some p → s.k.get 5 = some q →
      s.k.get 6 = some dP → s.k.get 7 = some dQ → s.k.get 8 = some qInv →
      (c < 0 ∨ n ≤ c → Faults i s K) ∧
      (0 ≤ c → c < n → NoPower c dP p ∨ NoPower c dQ q → Faults i s .badParameter) ∧
      (0 ≤ c → c < n → ¬ NoPower c dP p → ¬ NoPower c dQ q →
        ∃ m1 m2 v, IsPower c dP p m1 ∧ IsPower c dQ q m2 ∧ v = m2 + q * ((m1 - m2) * qInv % p) ∧
          0 ≤ v ∧ v ≤ p * q - 1 ∧ EndsWriting i s rd v))

/-- 45_rsa.md R200: `KEYGEN` refuses odd and small lengths; on an accepted pair it installs the
modulus-form key, all or nothing.  Two clauses are the model's: `CapacityFault` iff some value to be
written does not fit, 65537 included, where R200 says `bits > CAP_BITS` (DEDUCED, log 10); and a command
still in progress, of which only the random source and the pair's first prime have moved (DESIGN CHOICE,
log 4). -/
def Obligations.KeygenInstallsAModulusKey : Prop :=
  ∀ (s : State) (imm : Imm) (g : Rng),
    (imm.toNat % 2 = 1 ∨ imm.toNat < 10 → Faults (.keygen imm) s .badParameter) ∧
    (imm.toNat % 2 = 0 → 10 ≤ imm.toNat →
      (∀ w, keyGen imm.toNat Config.genAttempts s.work s.rng = (.more w, g) →
        exec (.keygen imm) s = .next { s with rng := g, work := w }) ∧
      (∀ p q : Nat, keyGen imm.toNat Config.genAttempts s.work s.rng = (.done p q, g) →
        ∃ d, 0 ≤ d ∧ d < ((p : Int) - 1) * ((q : Int) - 1) ∧
          65537 * d % (((p : Int) - 1) * ((q : Int) - 1)) = 1 ∧
          (Fits s (p * q : Int) ∧ Fits s 65537 ∧ Fits s d → exec (.keygen imm) s = .next { s with
            k := #v[some (p * q : Int), some 65537, some (p * q : Int), some d, none, none, none,
              none, none],
            kform := .modKey, rng := g, work := none, pc := s.pc + 1 }) ∧
          (¬ (Fits s (p * q : Int) ∧ Fits s 65537 ∧ Fits s d) →
            exec (.keygen imm) s = .next (faulted { s with rng := g, work := none } .capacityFault))))

/-- 45_rsa.md R201: `KEYGENC`, the same with the CRT-form key and its three further inverses; a pair that
is not coprime takes `BadParameter`.  The capacity clause is the model's as in `KEYGEN` (DEDUCED, log 10),
and so is the command still in progress (DESIGN CHOICE, log 4). -/
def Obligations.KeygencInstallsACrtKey : Prop :=
  ∀ (s : State) (imm : Imm) (g : Rng),
    (imm.toNat % 2 = 1 ∨ imm.toNat < 10 → Faults (.keygenc imm) s .badParameter) ∧
    (imm.toNat % 2 = 0 → 10 ≤ imm.toNat →
      (∀ w, keyGen imm.toNat Config.genAttempts s.work s.rng = (.more w, g) →
        exec (.keygenc imm) s = .next { s with rng := g, work := w }) ∧
      (∀ p q : Nat, keyGen imm.toNat Config.genAttempts s.work s.rng = (.done p q, g) →
        (Nat.gcd p q ≠ 1 →
          exec (.keygenc imm) s = .next (faulted { s with rng := g, work := none } .badParameter)) ∧
        (Nat.gcd p q = 1 → ∃ d dP dQ qInv : Int,
          0 ≤ d ∧ d < ((p : Int) - 1) * ((q : Int) - 1) ∧
          65537 * d % (((p : Int) - 1) * ((q : Int) - 1)) = 1 ∧
          0 ≤ dP ∧ dP < (p : Int) - 1 ∧ 65537 * dP % ((p : Int) - 1) = 1 % ((p : Int) - 1) ∧
          0 ≤ dQ ∧ dQ < (q : Int) - 1 ∧ 65537 * dQ % ((q : Int) - 1) = 1 % ((q : Int) - 1) ∧
          0 ≤ qInv ∧ qInv < p ∧ q * qInv % p = 1 % (p : Int) ∧
          ((∀ v ∈ [(p * q : Int), 65537, d, p, q, dP, dQ, qInv], Fits s v) →
            exec (.keygenc imm) s = .next { s with
              k := #v[some (p * q : Int), some 65537, some (p * q : Int), some d, some (p : Int),
                some (q : Int), some dP, some dQ, some qInv],
              kform := .crtKey, rng := g, work := none, pc := s.pc + 1 }) ∧
          (¬ (∀ v ∈ [(p * q : Int), 65537, d, p, q, dP, dQ, qInv], Fits s v) →
            exec (.keygenc imm) s =
              .next (faulted { s with rng := g, work := none } .capacityFault)))))

/-! ## How the units and the two key forms relate -/

/-- 41_modular.md R120, R123: the REDC loop computes the Montgomery product, and the Barrett estimate with
at most two subtractions the residue. -/
def Obligations.UnitsComputeTheirResults : Prop :=
  (∀ a b n : Int, 0 < n → n % 2 = 1 → 0 ≤ a → a < n → 0 ≤ b → b < n →
    redc a b n = montMul a b n) ∧
  (∀ v m : Int, 0 < m → 0 ≤ v → v < 4 ^ Nat.size m.toNat → barrettReduce v m = v % m)

/-- 41_modular.md R124: the loop of `ModPow` in Montgomery form computes the same integer, for an odd
modulus above 1. -/
def Obligations.MontgomeryFormLoopIsModPow : Prop :=
  ∀ (b m : Int) (e : Nat), 1 < m → m % 2 = 1 → montPowMod b e m = powMod b e m

/-- 45_rsa.md R198 with `dP, dQ > 0` in place of `dP, dQ ≥ 0`: the two private-key forms give the same
value for the same key, `c^d mod n`.  As the rule writes it the law is not true of the rules: where
`dP = 0`, `ModPow(c, 0, p)` is 1 although `c ≡ 0 (mod p)` (NOTES.md). -/
def Obligations.CrtFormEqualsModulusForm : Prop :=
  ∀ (p q : Nat) (d dP dQ qInv c : Int) (K : FaultKind), p.Prime → q.Prime → p ≠ q → 0 < d →
    dP % ((p : Int) - 1) = d % ((p : Int) - 1) → dQ % ((q : Int) - 1) = d % ((q : Int) - 1) →
    0 < dP → 0 < dQ → qInv * q % p = 1 → 0 ≤ c → c < p * q →
    rsaPrivCrt K (p * q) p q dP dQ qInv c = rsaPrivMod (p * q) d c ∧
    rsaPrivMod (p * q) d c = .ok (c ^ d.toNat % (p * q))

/-- 45_rsa.md R202 (b): with distinct primes and inverse exponents, `RSADP` after `RSAEP` gives the
message back. -/
def Obligations.RsadpAfterRsaepIsTheMessage : Prop :=
  ∀ (s : State) (rd rb ra : XReg) (p q : Nat) (e d m : Int), p.Prime → q.Prime → p ≠ q →
    0 < e → 0 < d → e * d % (((p : Int) - 1) * ((q : Int) - 1)) = 1 % (((p : Int) - 1) * ((q : Int) - 1)) →
    s.kform = .modKey → s.k.get 0 = some (p * q : Int) → s.k.get 1 = some e →
    s.k.get 2 = some (p * q : Int) → s.k.get 3 = some d → RegistersFit s →
    s.x.get ra = some m → 0 ≤ m → m < p * q →
    ∃ c, exec (.rsaep rb ra) s = .next (written s rb c) ∧
      exec (.rsadp rd rb) (written s rb c) = .next (written (written s rb c) rd m)
end

