-- ==== Sys2Proof/Laws/State.lean ====
section
/-! SUPPORT. For each named update of the state, what every field reads afterwards: one lemma per field per
update, true by rfl, so that no proof unfolds a record update. -/

namespace Sys2Proof.Machine.State

/-! ### `setX` -/

@[simp] theorem setX_x (s : State) (i : XReg) (v : Int) : (s.setX i v).x = s.x.set i (some v) := rfl
@[simp] theorem setX_k (s : State) (i : XReg) (v : Int) : (s.setX i v).k = s.k := rfl
@[simp] theorem setX_pc (s : State) (i : XReg) (v : Int) : (s.setX i v).pc = s.pc := rfl
@[simp] theorem setX_status (s : State) (i : XReg) (v : Int) : (s.setX i v).status = s.status := rfl
@[simp] theorem setX_flags (s : State) (i : XReg) (v : Int) : (s.setX i v).flags = s.flags := rfl
@[simp] theorem setX_ptr (s : State) (i : XReg) (v : Int) : (s.setX i v).ptr = s.ptr := rfl
@[simp] theorem setX_len (s : State) (i : XReg) (v : Int) : (s.setX i v).len = s.len := rfl
@[simp] theorem setX_ekind (s : State) (i : XReg) (v : Int) : (s.setX i v).ekind = s.ekind := rfl
@[simp] theorem setX_epc (s : State) (i : XReg) (v : Int) : (s.setX i v).epc = s.epc := rfl
@[simp] theorem setX_kform (s : State) (i : XReg) (v : Int) : (s.setX i v).kform = s.kform := rfl
@[simp] theorem setX_ie (s : State) (i : XReg) (v : Int) : (s.setX i v).ie = s.ie := rfl
@[simp] theorem setX_cm (s : State) (i : XReg) (v : Int) : (s.setX i v).cm = s.cm := rfl
@[simp] theorem setX_om (s : State) (i : XReg) (v : Int) : (s.setX i v).om = s.om := rfl
@[simp] theorem setX_par (s : State) (i : XReg) (v : Int) : (s.setX i v).par = s.par := rfl
@[simp] theorem setX_launch (s : State) (i : XReg) (v : Int) : (s.setX i v).launch = s.launch := rfl
@[simp] theorem setX_rng (s : State) (i : XReg) (v : Int) : (s.setX i v).rng = s.rng := rfl
@[simp] theorem setX_work (s : State) (i : XReg) (v : Int) : (s.setX i v).work = s.work := rfl
@[simp] theorem setX_host (s : State) (i : XReg) (v : Int) : (s.setX i v).host = s.host := rfl
@[simp] theorem setX_hostReply (s : State) (i : XReg) (v : Int) : (s.setX i v).hostReply = s.hostReply := rfl
@[simp] theorem setX_freeReads (s : State) (i : XReg) (v : Int) : (s.setX i v).freeReads = s.freeReads := rfl

/-! ### `setK` -/

@[simp] theorem setK_x (s : State) (j : KReg) (v : Int) : (s.setK j v).x = s.x := rfl
@[simp] theorem setK_k (s : State) (j : KReg) (v : Int) : (s.setK j v).k = s.k.set j (some v) := rfl
@[simp] theorem setK_pc (s : State) (j : KReg) (v : Int) : (s.setK j v).pc = s.pc := rfl
@[simp] theorem setK_status (s : State) (j : KReg) (v : Int) : (s.setK j v).status = s.status := rfl
@[simp] theorem setK_flags (s : State) (j : KReg) (v : Int) : (s.setK j v).flags = s.flags := rfl
@[simp] theorem setK_ptr (s : State) (j : KReg) (v : Int) : (s.setK j v).ptr = s.ptr := rfl
@[simp] theorem setK_len (s : State) (j : KReg) (v : Int) : (s.setK j v).len = s.len := rfl
@[simp] theorem setK_ekind (s : State) (j : KReg) (v : Int) : (s.setK j v).ekind = s.ekind := rfl
@[simp] theorem setK_epc (s : State) (j : KReg) (v : Int) : (s.setK j v).epc = s.epc := rfl
@[simp] theorem setK_kform (s : State) (j : KReg) (v : Int) : (s.setK j v).kform = s.kform := rfl
@[simp] theorem setK_ie (s : State) (j : KReg) (v : Int) : (s.setK j v).ie = s.ie := rfl
@[simp] theorem setK_cm (s : State) (j : KReg) (v : Int) : (s.setK j v).cm = s.cm := rfl
@[simp] theorem setK_om (s : State) (j : KReg) (v : Int) : (s.setK j v).om = s.om := rfl
@[simp] theorem setK_par (s : State) (j : KReg) (v : Int) : (s.setK j v).par = s.par := rfl
@[simp] theorem setK_launch (s : State) (j : KReg) (v : Int) : (s.setK j v).launch = s.launch := rfl
@[simp] theorem setK_rng (s : State) (j : KReg) (v : Int) : (s.setK j v).rng = s.rng := rfl
@[simp] theorem setK_work (s : State) (j : KReg) (v : Int) : (s.setK j v).work = s.work := rfl
@[simp] theorem setK_host (s : State) (j : KReg) (v : Int) : (s.setK j v).host = s.host := rfl
@[simp] theorem setK_hostReply (s : State) (j : KReg) (v : Int) : (s.setK j v).hostReply = s.hostReply := rfl
@[simp] theorem setK_freeReads (s : State) (j : KReg) (v : Int) : (s.setK j v).freeReads = s.freeReads := rfl

/-! ### `setKeys` -/

@[simp] theorem setKeys_x (s : State) (ks : Vector (Option Int) 9) : (s.setKeys ks).x = s.x := rfl
@[simp] theorem setKeys_k (s : State) (ks : Vector (Option Int) 9) : (s.setKeys ks).k = ks := rfl
@[simp] theorem setKeys_pc (s : State) (ks : Vector (Option Int) 9) : (s.setKeys ks).pc = s.pc := rfl
@[simp] theorem setKeys_status (s : State) (ks : Vector (Option Int) 9) : (s.setKeys ks).status = s.status := rfl
@[simp] theorem setKeys_flags (s : State) (ks : Vector (Option Int) 9) : (s.setKeys ks).flags = s.flags := rfl
@[simp] theorem setKeys_ptr (s : State) (ks : Vector (Option Int) 9) : (s.setKeys ks).ptr = s.ptr := rfl
@[simp] theorem setKeys_len (s : State) (ks : Vector (Option Int) 9) : (s.setKeys ks).len = s.len := rfl
@[simp] theorem setKeys_ekind (s : State) (ks : Vector (Option Int) 9) : (s.setKeys ks).ekind = s.ekind := rfl
@[simp] theorem setKeys_epc (s : State) (ks : Vector (Option Int) 9) : (s.setKeys ks).epc = s.epc := rfl
@[simp] theorem setKeys_kform (s : State) (ks : Vector (Option Int) 9) : (s.setKeys ks).kform = s.kform := rfl
@[simp] theorem setKeys_ie (s : State) (ks : Vector (Option Int) 9) : (s.setKeys ks).ie = s.ie := rfl
@[simp] theorem setKeys_cm (s : State) (ks : Vector (Option Int) 9) : (s.setKeys ks).cm = s.cm := rfl
@[simp] theorem setKeys_om (s : State) (ks : Vector (Option Int) 9) : (s.setKeys ks).om = s.om := rfl
@[simp] theorem setKeys_par (s : State) (ks : Vector (Option Int) 9) : (s.setKeys ks).par = s.par := rfl
@[simp] theorem setKeys_launch (s : State) (ks : Vector (Option Int) 9) : (s.setKeys ks).launch = s.launch := rfl
@[simp] theorem setKeys_rng (s : State) (ks : Vector (Option Int) 9) : (s.setKeys ks).rng = s.rng := rfl
@[simp] theorem setKeys_work (s : State) (ks : Vector (Option Int) 9) : (s.setKeys ks).work = s.work := rfl
@[simp] theorem setKeys_host (s : State) (ks : Vector (Option Int) 9) : (s.setKeys ks).host = s.host := rfl
@[simp] theorem setKeys_hostReply (s : State) (ks : Vector (Option Int) 9) : (s.setKeys ks).hostReply = s.hostReply := rfl
@[simp] theorem setKeys_freeReads (s : State) (ks : Vector (Option Int) 9) : (s.setKeys ks).freeReads = s.freeReads := rfl

/-! ### `advance` -/

@[simp] theorem advance_x (s : State) : s.advance.x = s.x := rfl
@[simp] theorem advance_k (s : State) : s.advance.k = s.k := rfl
@[simp] theorem advance_pc (s : State) : s.advance.pc = s.pc + 1 := rfl
@[simp] theorem advance_status (s : State) : s.advance.status = s.status := rfl
@[simp] theorem advance_flags (s : State) : s.advance.flags = s.flags := rfl
@[simp] theorem advance_ptr (s : State) : s.advance.ptr = s.ptr := rfl
@[simp] theorem advance_len (s : State) : s.advance.len = s.len := rfl
@[simp] theorem advance_ekind (s : State) : s.advance.ekind = s.ekind := rfl
@[simp] theorem advance_epc (s : State) : s.advance.epc = s.epc := rfl
@[simp] theorem advance_kform (s : State) : s.advance.kform = s.kform := rfl
@[simp] theorem advance_ie (s : State) : s.advance.ie = s.ie := rfl
@[simp] theorem advance_cm (s : State) : s.advance.cm = s.cm := rfl
@[simp] theorem advance_om (s : State) : s.advance.om = s.om := rfl
@[simp] theorem advance_par (s : State) : s.advance.par = s.par := rfl
@[simp] theorem advance_launch (s : State) : s.advance.launch = s.launch := rfl
@[simp] theorem advance_rng (s : State) : s.advance.rng = s.rng := rfl
@[simp] theorem advance_work (s : State) : s.advance.work = s.work := rfl
@[simp] theorem advance_host (s : State) : s.advance.host = s.host := rfl
@[simp] theorem advance_hostReply (s : State) : s.advance.hostReply = s.hostReply := rfl
@[simp] theorem advance_freeReads (s : State) : s.advance.freeReads = s.freeReads := rfl

/-! ### `jump` -/

@[simp] theorem jump_x (s : State) (t : BitVec 16) : (s.jump t).x = s.x := rfl
@[simp] theorem jump_k (s : State) (t : BitVec 16) : (s.jump t).k = s.k := rfl
@[simp] theorem jump_pc (s : State) (t : BitVec 16) : (s.jump t).pc = t := rfl
@[simp] theorem jump_status (s : State) (t : BitVec 16) : (s.jump t).status = s.status := rfl
@[simp] theorem jump_flags (s : State) (t : BitVec 16) : (s.jump t).flags = s.flags := rfl
@[simp] theorem jump_ptr (s : State) (t : BitVec 16) : (s.jump t).ptr = s.ptr := rfl
@[simp] theorem jump_len (s : State) (t : BitVec 16) : (s.jump t).len = s.len := rfl
@[simp] theorem jump_ekind (s : State) (t : BitVec 16) : (s.jump t).ekind = s.ekind := rfl
@[simp] theorem jump_epc (s : State) (t : BitVec 16) : (s.jump t).epc = s.epc := rfl
@[simp] theorem jump_kform (s : State) (t : BitVec 16) : (s.jump t).kform = s.kform := rfl
@[simp] theorem jump_ie (s : State) (t : BitVec 16) : (s.jump t).ie = s.ie := rfl
@[simp] theorem jump_cm (s : State) (t : BitVec 16) : (s.jump t).cm = s.cm := rfl
@[simp] theorem jump_om (s : State) (t : BitVec 16) : (s.jump t).om = s.om := rfl
@[simp] theorem jump_par (s : State) (t : BitVec 16) : (s.jump t).par = s.par := rfl
@[simp] theorem jump_launch (s : State) (t : BitVec 16) : (s.jump t).launch = s.launch := rfl
@[simp] theorem jump_rng (s : State) (t : BitVec 16) : (s.jump t).rng = s.rng := rfl
@[simp] theorem jump_work (s : State) (t : BitVec 16) : (s.jump t).work = s.work := rfl
@[simp] theorem jump_host (s : State) (t : BitVec 16) : (s.jump t).host = s.host := rfl
@[simp] theorem jump_hostReply (s : State) (t : BitVec 16) : (s.jump t).hostReply = s.hostReply := rfl
@[simp] theorem jump_freeReads (s : State) (t : BitVec 16) : (s.jump t).freeReads = s.freeReads := rfl

/-! ### `setFlags` -/

@[simp] theorem setFlags_x (s : State) (f : BitVec 3) : (s.setFlags f).x = s.x := rfl
@[simp] theorem setFlags_k (s : State) (f : BitVec 3) : (s.setFlags f).k = s.k := rfl
@[simp] theorem setFlags_pc (s : State) (f : BitVec 3) : (s.setFlags f).pc = s.pc := rfl
@[simp] theorem setFlags_status (s : State) (f : BitVec 3) : (s.setFlags f).status = s.status := rfl
@[simp] theorem setFlags_flags (s : State) (f : BitVec 3) : (s.setFlags f).flags = f := rfl
@[simp] theorem setFlags_ptr (s : State) (f : BitVec 3) : (s.setFlags f).ptr = s.ptr := rfl
@[simp] theorem setFlags_len (s : State) (f : BitVec 3) : (s.setFlags f).len = s.len := rfl
@[simp] theorem setFlags_ekind (s : State) (f : BitVec 3) : (s.setFlags f).ekind = s.ekind := rfl
@[simp] theorem setFlags_epc (s : State) (f : BitVec 3) : (s.setFlags f).epc = s.epc := rfl
@[simp] theorem setFlags_kform (s : State) (f : BitVec 3) : (s.setFlags f).kform = s.kform := rfl
@[simp] theorem setFlags_ie (s : State) (f : BitVec 3) : (s.setFlags f).ie = s.ie := rfl
@[simp] theorem setFlags_cm (s : State) (f : BitVec 3) : (s.setFlags f).cm = s.cm := rfl
@[simp] theorem setFlags_om (s : State) (f : BitVec 3) : (s.setFlags f).om = s.om := rfl
@[simp] theorem setFlags_par (s : State) (f : BitVec 3) : (s.setFlags f).par = s.par := rfl
@[simp] theorem setFlags_launch (s : State) (f : BitVec 3) : (s.setFlags f).launch = s.launch := rfl
@[simp] theorem setFlags_rng (s : State) (f : BitVec 3) : (s.setFlags f).rng = s.rng := rfl
@[simp] theorem setFlags_work (s : State) (f : BitVec 3) : (s.setFlags f).work = s.work := rfl
@[simp] theorem setFlags_host (s : State) (f : BitVec 3) : (s.setFlags f).host = s.host := rfl
@[simp] theorem setFlags_hostReply (s : State) (f : BitVec 3) : (s.setFlags f).hostReply = s.hostReply := rfl
@[simp] theorem setFlags_freeReads (s : State) (f : BitVec 3) : (s.setFlags f).freeReads = s.freeReads := rfl

/-! ### `setPtr` -/

@[simp] theorem setPtr_x (s : State) (v : BitVec 16) : (s.setPtr v).x = s.x := rfl
@[simp] theorem setPtr_k (s : State) (v : BitVec 16) : (s.setPtr v).k = s.k := rfl
@[simp] theorem setPtr_pc (s : State) (v : BitVec 16) : (s.setPtr v).pc = s.pc := rfl
@[simp] theorem setPtr_status (s : State) (v : BitVec 16) : (s.setPtr v).status = s.status := rfl
@[simp] theorem setPtr_flags (s : State) (v : BitVec 16) : (s.setPtr v).flags = s.flags := rfl
@[simp] theorem setPtr_ptr (s : State) (v : BitVec 16) : (s.setPtr v).ptr = v := rfl
@[simp] theorem setPtr_len (s : State) (v : BitVec 16) : (s.setPtr v).len = s.len := rfl
@[simp] theorem setPtr_ekind (s : State) (v : BitVec 16) : (s.setPtr v).ekind = s.ekind := rfl
@[simp] theorem setPtr_epc (s : State) (v : BitVec 16) : (s.setPtr v).epc = s.epc := rfl
@[simp] theorem setPtr_kform (s : State) (v : BitVec 16) : (s.setPtr v).kform = s.kform := rfl
@[simp] theorem setPtr_ie (s : State) (v : BitVec 16) : (s.setPtr v).ie = s.ie := rfl
@[simp] theorem setPtr_cm (s : State) (v : BitVec 16) : (s.setPtr v).cm = s.cm := rfl
@[simp] theorem setPtr_om (s : State) (v : BitVec 16) : (s.setPtr v).om = s.om := rfl
@[simp] theorem setPtr_par (s : State) (v : BitVec 16) : (s.setPtr v).par = s.par := rfl
@[simp] theorem setPtr_launch (s : State) (v : BitVec 16) : (s.setPtr v).launch = s.launch := rfl
@[simp] theorem setPtr_rng (s : State) (v : BitVec 16) : (s.setPtr v).rng = s.rng := rfl
@[simp] theorem setPtr_work (s : State) (v : BitVec 16) : (s.setPtr v).work = s.work := rfl
@[simp] theorem setPtr_host (s : State) (v : BitVec 16) : (s.setPtr v).host = s.host := rfl
@[simp] theorem setPtr_hostReply (s : State) (v : BitVec 16) : (s.setPtr v).hostReply = s.hostReply := rfl
@[simp] theorem setPtr_freeReads (s : State) (v : BitVec 16) : (s.setPtr v).freeReads = s.freeReads := rfl

/-! ### `setLen` -/

@[simp] theorem setLen_x (s : State) (v : BitVec 16) : (s.setLen v).x = s.x := rfl
@[simp] theorem setLen_k (s : State) (v : BitVec 16) : (s.setLen v).k = s.k := rfl
@[simp] theorem setLen_pc (s : State) (v : BitVec 16) : (s.setLen v).pc = s.pc := rfl
@[simp] theorem setLen_status (s : State) (v : BitVec 16) : (s.setLen v).status = s.status := rfl
@[simp] theorem setLen_flags (s : State) (v : BitVec 16) : (s.setLen v).flags = s.flags := rfl
@[simp] theorem setLen_ptr (s : State) (v : BitVec 16) : (s.setLen v).ptr = s.ptr := rfl
@[simp] theorem setLen_len (s : State) (v : BitVec 16) : (s.setLen v).len = v := rfl
@[simp] theorem setLen_ekind (s : State) (v : BitVec 16) : (s.setLen v).ekind = s.ekind := rfl
@[simp] theorem setLen_epc (s : State) (v : BitVec 16) : (s.setLen v).epc = s.epc := rfl
@[simp] theorem setLen_kform (s : State) (v : BitVec 16) : (s.setLen v).kform = s.kform := rfl
@[simp] theorem setLen_ie (s : State) (v : BitVec 16) : (s.setLen v).ie = s.ie := rfl
@[simp] theorem setLen_cm (s : State) (v : BitVec 16) : (s.setLen v).cm = s.cm := rfl
@[simp] theorem setLen_om (s : State) (v : BitVec 16) : (s.setLen v).om = s.om := rfl
@[simp] theorem setLen_par (s : State) (v : BitVec 16) : (s.setLen v).par = s.par := rfl
@[simp] theorem setLen_launch (s : State) (v : BitVec 16) : (s.setLen v).launch = s.launch := rfl
@[simp] theorem setLen_rng (s : State) (v : BitVec 16) : (s.setLen v).rng = s.rng := rfl
@[simp] theorem setLen_work (s : State) (v : BitVec 16) : (s.setLen v).work = s.work := rfl
@[simp] theorem setLen_host (s : State) (v : BitVec 16) : (s.setLen v).host = s.host := rfl
@[simp] theorem setLen_hostReply (s : State) (v : BitVec 16) : (s.setLen v).hostReply = s.hostReply := rfl
@[simp] theorem setLen_freeReads (s : State) (v : BitVec 16) : (s.setLen v).freeReads = s.freeReads := rfl

/-! ### `setKform` -/

@[simp] theorem setKform_x (s : State) (f : KForm) : (s.setKform f).x = s.x := rfl
@[simp] theorem setKform_k (s : State) (f : KForm) : (s.setKform f).k = s.k := rfl
@[simp] theorem setKform_pc (s : State) (f : KForm) : (s.setKform f).pc = s.pc := rfl
@[simp] theorem setKform_status (s : State) (f : KForm) : (s.setKform f).status = s.status := rfl
@[simp] theorem setKform_flags (s : State) (f : KForm) : (s.setKform f).flags = s.flags := rfl
@[simp] theorem setKform_ptr (s : State) (f : KForm) : (s.setKform f).ptr = s.ptr := rfl
@[simp] theorem setKform_len (s : State) (f : KForm) : (s.setKform f).len = s.len := rfl
@[simp] theorem setKform_ekind (s : State) (f : KForm) : (s.setKform f).ekind = s.ekind := rfl
@[simp] theorem setKform_epc (s : State) (f : KForm) : (s.setKform f).epc = s.epc := rfl
@[simp] theorem setKform_kform (s : State) (f : KForm) : (s.setKform f).kform = f := rfl
@[simp] theorem setKform_ie (s : State) (f : KForm) : (s.setKform f).ie = s.ie := rfl
@[simp] theorem setKform_cm (s : State) (f : KForm) : (s.setKform f).cm = s.cm := rfl
@[simp] theorem setKform_om (s : State) (f : KForm) : (s.setKform f).om = s.om := rfl
@[simp] theorem setKform_par (s : State) (f : KForm) : (s.setKform f).par = s.par := rfl
@[simp] theorem setKform_launch (s : State) (f : KForm) : (s.setKform f).launch = s.launch := rfl
@[simp] theorem setKform_rng (s : State) (f : KForm) : (s.setKform f).rng = s.rng := rfl
@[simp] theorem setKform_work (s : State) (f : KForm) : (s.setKform f).work = s.work := rfl
@[simp] theorem setKform_host (s : State) (f : KForm) : (s.setKform f).host = s.host := rfl
@[simp] theorem setKform_hostReply (s : State) (f : KForm) : (s.setKform f).hostReply = s.hostReply := rfl
@[simp] theorem setKform_freeReads (s : State) (f : KForm) : (s.setKform f).freeReads = s.freeReads := rfl

/-! ### `setIe` -/

@[simp] theorem setIe_x (s : State) (v : BitVec 2) : (s.setIe v).x = s.x := rfl
@[simp] theorem setIe_k (s : State) (v : BitVec 2) : (s.setIe v).k = s.k := rfl
@[simp] theorem setIe_pc (s : State) (v : BitVec 2) : (s.setIe v).pc = s.pc := rfl
@[simp] theorem setIe_status (s : State) (v : BitVec 2) : (s.setIe v).status = s.status := rfl
@[simp] theorem setIe_flags (s : State) (v : BitVec 2) : (s.setIe v).flags = s.flags := rfl
@[simp] theorem setIe_ptr (s : State) (v : BitVec 2) : (s.setIe v).ptr = s.ptr := rfl
@[simp] theorem setIe_len (s : State) (v : BitVec 2) : (s.setIe v).len = s.len := rfl
@[simp] theorem setIe_ekind (s : State) (v : BitVec 2) : (s.setIe v).ekind = s.ekind := rfl
@[simp] theorem setIe_epc (s : State) (v : BitVec 2) : (s.setIe v).epc = s.epc := rfl
@[simp] theorem setIe_kform (s : State) (v : BitVec 2) : (s.setIe v).kform = s.kform := rfl
@[simp] theorem setIe_ie (s : State) (v : BitVec 2) : (s.setIe v).ie = v := rfl
@[simp] theorem setIe_cm (s : State) (v : BitVec 2) : (s.setIe v).cm = s.cm := rfl
@[simp] theorem setIe_om (s : State) (v : BitVec 2) : (s.setIe v).om = s.om := rfl
@[simp] theorem setIe_par (s : State) (v : BitVec 2) : (s.setIe v).par = s.par := rfl
@[simp] theorem setIe_launch (s : State) (v : BitVec 2) : (s.setIe v).launch = s.launch := rfl
@[simp] theorem setIe_rng (s : State) (v : BitVec 2) : (s.setIe v).rng = s.rng := rfl
@[simp] theorem setIe_work (s : State) (v : BitVec 2) : (s.setIe v).work = s.work := rfl
@[simp] theorem setIe_host (s : State) (v : BitVec 2) : (s.setIe v).host = s.host := rfl
@[simp] theorem setIe_hostReply (s : State) (v : BitVec 2) : (s.setIe v).hostReply = s.hostReply := rfl
@[simp] theorem setIe_freeReads (s : State) (v : BitVec 2) : (s.setIe v).freeReads = s.freeReads := rfl

/-! ### `setStatus` -/

@[simp] theorem setStatus_x (s : State) (r : RunState) : (s.setStatus r).x = s.x := rfl
@[simp] theorem setStatus_k (s : State) (r : RunState) : (s.setStatus r).k = s.k := rfl
@[simp] theorem setStatus_pc (s : State) (r : RunState) : (s.setStatus r).pc = s.pc := rfl
@[simp] theorem setStatus_status (s : State) (r : RunState) : (s.setStatus r).status = r := rfl
@[simp] theorem setStatus_flags (s : State) (r : RunState) : (s.setStatus r).flags = s.flags := rfl
@[simp] theorem setStatus_ptr (s : State) (r : RunState) : (s.setStatus r).ptr = s.ptr := rfl
@[simp] theorem setStatus_len (s : State) (r : RunState) : (s.setStatus r).len = s.len := rfl
@[simp] theorem setStatus_ekind (s : State) (r : RunState) : (s.setStatus r).ekind = s.ekind := rfl
@[simp] theorem setStatus_epc (s : State) (r : RunState) : (s.setStatus r).epc = s.epc := rfl
@[simp] theorem setStatus_kform (s : State) (r : RunState) : (s.setStatus r).kform = s.kform := rfl
@[simp] theorem setStatus_ie (s : State) (r : RunState) : (s.setStatus r).ie = s.ie := rfl
@[simp] theorem setStatus_cm (s : State) (r : RunState) : (s.setStatus r).cm = s.cm := rfl
@[simp] theorem setStatus_om (s : State) (r : RunState) : (s.setStatus r).om = s.om := rfl
@[simp] theorem setStatus_par (s : State) (r : RunState) : (s.setStatus r).par = s.par := rfl
@[simp] theorem setStatus_launch (s : State) (r : RunState) : (s.setStatus r).launch = s.launch := rfl
@[simp] theorem setStatus_rng (s : State) (r : RunState) : (s.setStatus r).rng = s.rng := rfl
@[simp] theorem setStatus_work (s : State) (r : RunState) : (s.setStatus r).work = s.work := rfl
@[simp] theorem setStatus_host (s : State) (r : RunState) : (s.setStatus r).host = s.host := rfl
@[simp] theorem setStatus_hostReply (s : State) (r : RunState) : (s.setStatus r).hostReply = s.hostReply := rfl
@[simp] theorem setStatus_freeReads (s : State) (r : RunState) : (s.setStatus r).freeReads = s.freeReads := rfl

/-! ### `setRng` -/

@[simp] theorem setRng_x (s : State) (g : Rng) : (s.setRng g).x = s.x := rfl
@[simp] theorem setRng_k (s : State) (g : Rng) : (s.setRng g).k = s.k := rfl
@[simp] theorem setRng_pc (s : State) (g : Rng) : (s.setRng g).pc = s.pc := rfl
@[simp] theorem setRng_status (s : State) (g : Rng) : (s.setRng g).status = s.status := rfl
@[simp] theorem setRng_flags (s : State) (g : Rng) : (s.setRng g).flags = s.flags := rfl
@[simp] theorem setRng_ptr (s : State) (g : Rng) : (s.setRng g).ptr = s.ptr := rfl
@[simp] theorem setRng_len (s : State) (g : Rng) : (s.setRng g).len = s.len := rfl
@[simp] theorem setRng_ekind (s : State) (g : Rng) : (s.setRng g).ekind = s.ekind := rfl
@[simp] theorem setRng_epc (s : State) (g : Rng) : (s.setRng g).epc = s.epc := rfl
@[simp] theorem setRng_kform (s : State) (g : Rng) : (s.setRng g).kform = s.kform := rfl
@[simp] theorem setRng_ie (s : State) (g : Rng) : (s.setRng g).ie = s.ie := rfl
@[simp] theorem setRng_cm (s : State) (g : Rng) : (s.setRng g).cm = s.cm := rfl
@[simp] theorem setRng_om (s : State) (g : Rng) : (s.setRng g).om = s.om := rfl
@[simp] theorem setRng_par (s : State) (g : Rng) : (s.setRng g).par = s.par := rfl
@[simp] theorem setRng_launch (s : State) (g : Rng) : (s.setRng g).launch = s.launch := rfl
@[simp] theorem setRng_rng (s : State) (g : Rng) : (s.setRng g).rng = g := rfl
@[simp] theorem setRng_work (s : State) (g : Rng) : (s.setRng g).work = s.work := rfl
@[simp] theorem setRng_host (s : State) (g : Rng) : (s.setRng g).host = s.host := rfl
@[simp] theorem setRng_hostReply (s : State) (g : Rng) : (s.setRng g).hostReply = s.hostReply := rfl
@[simp] theorem setRng_freeReads (s : State) (g : Rng) : (s.setRng g).freeReads = s.freeReads := rfl

/-! ### `setWork` -/

@[simp] theorem setWork_x (s : State) (p : Option Nat) : (s.setWork p).x = s.x := rfl
@[simp] theorem setWork_k (s : State) (p : Option Nat) : (s.setWork p).k = s.k := rfl
@[simp] theorem setWork_pc (s : State) (p : Option Nat) : (s.setWork p).pc = s.pc := rfl
@[simp] theorem setWork_status (s : State) (p : Option Nat) : (s.setWork p).status = s.status := rfl
@[simp] theorem setWork_flags (s : State) (p : Option Nat) : (s.setWork p).flags = s.flags := rfl
@[simp] theorem setWork_ptr (s : State) (p : Option Nat) : (s.setWork p).ptr = s.ptr := rfl
@[simp] theorem setWork_len (s : State) (p : Option Nat) : (s.setWork p).len = s.len := rfl
@[simp] theorem setWork_ekind (s : State) (p : Option Nat) : (s.setWork p).ekind = s.ekind := rfl
@[simp] theorem setWork_epc (s : State) (p : Option Nat) : (s.setWork p).epc = s.epc := rfl
@[simp] theorem setWork_kform (s : State) (p : Option Nat) : (s.setWork p).kform = s.kform := rfl
@[simp] theorem setWork_ie (s : State) (p : Option Nat) : (s.setWork p).ie = s.ie := rfl
@[simp] theorem setWork_cm (s : State) (p : Option Nat) : (s.setWork p).cm = s.cm := rfl
@[simp] theorem setWork_om (s : State) (p : Option Nat) : (s.setWork p).om = s.om := rfl
@[simp] theorem setWork_par (s : State) (p : Option Nat) : (s.setWork p).par = s.par := rfl
@[simp] theorem setWork_launch (s : State) (p : Option Nat) : (s.setWork p).launch = s.launch := rfl
@[simp] theorem setWork_rng (s : State) (p : Option Nat) : (s.setWork p).rng = s.rng := rfl
@[simp] theorem setWork_work (s : State) (p : Option Nat) : (s.setWork p).work = p := rfl
@[simp] theorem setWork_host (s : State) (p : Option Nat) : (s.setWork p).host = s.host := rfl
@[simp] theorem setWork_hostReply (s : State) (p : Option Nat) : (s.setWork p).hostReply = s.hostReply := rfl
@[simp] theorem setWork_freeReads (s : State) (p : Option Nat) : (s.setWork p).freeReads = s.freeReads := rfl

/-! ### `setCM` -/

@[simp] theorem setCM_x (s : State) (i : Nat) (w : Word) : (s.setCM i w).x = s.x := rfl
@[simp] theorem setCM_k (s : State) (i : Nat) (w : Word) : (s.setCM i w).k = s.k := rfl
@[simp] theorem setCM_pc (s : State) (i : Nat) (w : Word) : (s.setCM i w).pc = s.pc := rfl
@[simp] theorem setCM_status (s : State) (i : Nat) (w : Word) : (s.setCM i w).status = s.status := rfl
@[simp] theorem setCM_flags (s : State) (i : Nat) (w : Word) : (s.setCM i w).flags = s.flags := rfl
@[simp] theorem setCM_ptr (s : State) (i : Nat) (w : Word) : (s.setCM i w).ptr = s.ptr := rfl
@[simp] theorem setCM_len (s : State) (i : Nat) (w : Word) : (s.setCM i w).len = s.len := rfl
@[simp] theorem setCM_ekind (s : State) (i : Nat) (w : Word) : (s.setCM i w).ekind = s.ekind := rfl
@[simp] theorem setCM_epc (s : State) (i : Nat) (w : Word) : (s.setCM i w).epc = s.epc := rfl
@[simp] theorem setCM_kform (s : State) (i : Nat) (w : Word) : (s.setCM i w).kform = s.kform := rfl
@[simp] theorem setCM_ie (s : State) (i : Nat) (w : Word) : (s.setCM i w).ie = s.ie := rfl
@[simp] theorem setCM_cm (s : State) (i : Nat) (w : Word) : (s.setCM i w).cm = Memory.write s.cm i w := rfl
@[simp] theorem setCM_om (s : State) (i : Nat) (w : Word) : (s.setCM i w).om = s.om := rfl
@[simp] theorem setCM_par (s : State) (i : Nat) (w : Word) : (s.setCM i w).par = s.par := rfl
@[simp] theorem setCM_launch (s : State) (i : Nat) (w : Word) : (s.setCM i w).launch = s.launch := rfl
@[simp] theorem setCM_rng (s : State) (i : Nat) (w : Word) : (s.setCM i w).rng = s.rng := rfl
@[simp] theorem setCM_work (s : State) (i : Nat) (w : Word) : (s.setCM i w).work = s.work := rfl
@[simp] theorem setCM_host (s : State) (i : Nat) (w : Word) : (s.setCM i w).host = s.host := rfl
@[simp] theorem setCM_hostReply (s : State) (i : Nat) (w : Word) : (s.setCM i w).hostReply = s.hostReply := rfl
@[simp] theorem setCM_freeReads (s : State) (i : Nat) (w : Word) : (s.setCM i w).freeReads = s.freeReads := rfl

/-! ### `setOM` -/

@[simp] theorem setOM_x (s : State) (a : Nat) (bs : List Byte) : (s.setOM a bs).x = s.x := rfl
@[simp] theorem setOM_k (s : State) (a : Nat) (bs : List Byte) : (s.setOM a bs).k = s.k := rfl
@[simp] theorem setOM_pc (s : State) (a : Nat) (bs : List Byte) : (s.setOM a bs).pc = s.pc := rfl
@[simp] theorem setOM_status (s : State) (a : Nat) (bs : List Byte) : (s.setOM a bs).status = s.status := rfl
@[simp] theorem setOM_flags (s : State) (a : Nat) (bs : List Byte) : (s.setOM a bs).flags = s.flags := rfl
@[simp] theorem setOM_ptr (s : State) (a : Nat) (bs : List Byte) : (s.setOM a bs).ptr = s.ptr := rfl
@[simp] theorem setOM_len (s : State) (a : Nat) (bs : List Byte) : (s.setOM a bs).len = s.len := rfl
@[simp] theorem setOM_ekind (s : State) (a : Nat) (bs : List Byte) : (s.setOM a bs).ekind = s.ekind := rfl
@[simp] theorem setOM_epc (s : State) (a : Nat) (bs : List Byte) : (s.setOM a bs).epc = s.epc := rfl
@[simp] theorem setOM_kform (s : State) (a : Nat) (bs : List Byte) : (s.setOM a bs).kform = s.kform := rfl
@[simp] theorem setOM_ie (s : State) (a : Nat) (bs : List Byte) : (s.setOM a bs).ie = s.ie := rfl
@[simp] theorem setOM_cm (s : State) (a : Nat) (bs : List Byte) : (s.setOM a bs).cm = s.cm := rfl
@[simp] theorem setOM_om (s : State) (a : Nat) (bs : List Byte) : (s.setOM a bs).om = Memory.writeString s.om a bs := rfl
@[simp] theorem setOM_par (s : State) (a : Nat) (bs : List Byte) : (s.setOM a bs).par = s.par := rfl
@[simp] theorem setOM_launch (s : State) (a : Nat) (bs : List Byte) : (s.setOM a bs).launch = s.launch := rfl
@[simp] theorem setOM_rng (s : State) (a : Nat) (bs : List Byte) : (s.setOM a bs).rng = s.rng := rfl
@[simp] theorem setOM_work (s : State) (a : Nat) (bs : List Byte) : (s.setOM a bs).work = s.work := rfl
@[simp] theorem setOM_host (s : State) (a : Nat) (bs : List Byte) : (s.setOM a bs).host = s.host := rfl
@[simp] theorem setOM_hostReply (s : State) (a : Nat) (bs : List Byte) : (s.setOM a bs).hostReply = s.hostReply := rfl
@[simp] theorem setOM_freeReads (s : State) (a : Nat) (bs : List Byte) : (s.setOM a bs).freeReads = s.freeReads := rfl

/-! ### `faultEntry` -/

@[simp] theorem faultEntry_x (s : State) (K : FaultKind) : (s.faultEntry K).x = s.x := rfl
@[simp] theorem faultEntry_k (s : State) (K : FaultKind) : (s.faultEntry K).k = s.k := rfl
@[simp] theorem faultEntry_pc (s : State) (K : FaultKind) : (s.faultEntry K).pc = s.pc := rfl
@[simp] theorem faultEntry_status (s : State) (K : FaultKind) : (s.faultEntry K).status = .error := rfl
@[simp] theorem faultEntry_flags (s : State) (K : FaultKind) : (s.faultEntry K).flags = s.flags := rfl
@[simp] theorem faultEntry_ptr (s : State) (K : FaultKind) : (s.faultEntry K).ptr = s.ptr := rfl
@[simp] theorem faultEntry_len (s : State) (K : FaultKind) : (s.faultEntry K).len = s.len := rfl
@[simp] theorem faultEntry_ekind (s : State) (K : FaultKind) : (s.faultEntry K).ekind = some K := rfl
@[simp] theorem faultEntry_epc (s : State) (K : FaultKind) : (s.faultEntry K).epc = s.pc := rfl
@[simp] theorem faultEntry_kform (s : State) (K : FaultKind) : (s.faultEntry K).kform = s.kform := rfl
@[simp] theorem faultEntry_ie (s : State) (K : FaultKind) : (s.faultEntry K).ie = s.ie := rfl
@[simp] theorem faultEntry_cm (s : State) (K : FaultKind) : (s.faultEntry K).cm = s.cm := rfl
@[simp] theorem faultEntry_om (s : State) (K : FaultKind) : (s.faultEntry K).om = s.om := rfl
@[simp] theorem faultEntry_par (s : State) (K : FaultKind) : (s.faultEntry K).par = s.par := rfl
@[simp] theorem faultEntry_launch (s : State) (K : FaultKind) : (s.faultEntry K).launch = s.launch := rfl
@[simp] theorem faultEntry_rng (s : State) (K : FaultKind) : (s.faultEntry K).rng = s.rng := rfl
@[simp] theorem faultEntry_work (s : State) (K : FaultKind) : (s.faultEntry K).work = s.work := rfl
@[simp] theorem faultEntry_host (s : State) (K : FaultKind) : (s.faultEntry K).host = s.host := rfl
@[simp] theorem faultEntry_hostReply (s : State) (K : FaultKind) : (s.faultEntry K).hostReply = s.hostReply := rfl
@[simp] theorem faultEntry_freeReads (s : State) (K : FaultKind) : (s.faultEntry K).freeReads = s.freeReads := rfl

/-! ### `reply` -/

@[simp] theorem reply_x (s : State) (v : Nat) : (s.reply v).x = s.x := rfl
@[simp] theorem reply_k (s : State) (v : Nat) : (s.reply v).k = s.k := rfl
@[simp] theorem reply_pc (s : State) (v : Nat) : (s.reply v).pc = s.pc := rfl
@[simp] theorem reply_status (s : State) (v : Nat) : (s.reply v).status = s.status := rfl
@[simp] theorem reply_flags (s : State) (v : Nat) : (s.reply v).flags = s.flags := rfl
@[simp] theorem reply_ptr (s : State) (v : Nat) : (s.reply v).ptr = s.ptr := rfl
@[simp] theorem reply_len (s : State) (v : Nat) : (s.reply v).len = s.len := rfl
@[simp] theorem reply_ekind (s : State) (v : Nat) : (s.reply v).ekind = s.ekind := rfl
@[simp] theorem reply_epc (s : State) (v : Nat) : (s.reply v).epc = s.epc := rfl
@[simp] theorem reply_kform (s : State) (v : Nat) : (s.reply v).kform = s.kform := rfl
@[simp] theorem reply_ie (s : State) (v : Nat) : (s.reply v).ie = s.ie := rfl
@[simp] theorem reply_cm (s : State) (v : Nat) : (s.reply v).cm = s.cm := rfl
@[simp] theorem reply_om (s : State) (v : Nat) : (s.reply v).om = s.om := rfl
@[simp] theorem reply_par (s : State) (v : Nat) : (s.reply v).par = s.par := rfl
@[simp] theorem reply_launch (s : State) (v : Nat) : (s.reply v).launch = s.launch := rfl
@[simp] theorem reply_rng (s : State) (v : Nat) : (s.reply v).rng = s.rng := rfl
@[simp] theorem reply_work (s : State) (v : Nat) : (s.reply v).work = s.work := rfl
@[simp] theorem reply_host (s : State) (v : Nat) : (s.reply v).host = s.host := rfl
@[simp] theorem reply_hostReply (s : State) (v : Nat) : (s.reply v).hostReply = some v := rfl
@[simp] theorem reply_freeReads (s : State) (v : Nat) : (s.reply v).freeReads = s.freeReads := rfl

/-! ### `freeReply` -/

@[simp] theorem freeReply_x (s : State) (v : Nat) : (s.freeReply v).x = s.x := rfl
@[simp] theorem freeReply_k (s : State) (v : Nat) : (s.freeReply v).k = s.k := rfl
@[simp] theorem freeReply_pc (s : State) (v : Nat) : (s.freeReply v).pc = s.pc := rfl
@[simp] theorem freeReply_status (s : State) (v : Nat) : (s.freeReply v).status = s.status := rfl
@[simp] theorem freeReply_flags (s : State) (v : Nat) : (s.freeReply v).flags = s.flags := rfl
@[simp] theorem freeReply_ptr (s : State) (v : Nat) : (s.freeReply v).ptr = s.ptr := rfl
@[simp] theorem freeReply_len (s : State) (v : Nat) : (s.freeReply v).len = s.len := rfl
@[simp] theorem freeReply_ekind (s : State) (v : Nat) : (s.freeReply v).ekind = s.ekind := rfl
@[simp] theorem freeReply_epc (s : State) (v : Nat) : (s.freeReply v).epc = s.epc := rfl
@[simp] theorem freeReply_kform (s : State) (v : Nat) : (s.freeReply v).kform = s.kform := rfl
@[simp] theorem freeReply_ie (s : State) (v : Nat) : (s.freeReply v).ie = s.ie := rfl
@[simp] theorem freeReply_cm (s : State) (v : Nat) : (s.freeReply v).cm = s.cm := rfl
@[simp] theorem freeReply_om (s : State) (v : Nat) : (s.freeReply v).om = s.om := rfl
@[simp] theorem freeReply_par (s : State) (v : Nat) : (s.freeReply v).par = s.par := rfl
@[simp] theorem freeReply_launch (s : State) (v : Nat) : (s.freeReply v).launch = s.launch := rfl
@[simp] theorem freeReply_rng (s : State) (v : Nat) : (s.freeReply v).rng = s.rng := rfl
@[simp] theorem freeReply_work (s : State) (v : Nat) : (s.freeReply v).work = s.work := rfl
@[simp] theorem freeReply_host (s : State) (v : Nat) : (s.freeReply v).host = s.host := rfl
@[simp] theorem freeReply_hostReply (s : State) (v : Nat) : (s.freeReply v).hostReply = some v := rfl
@[simp] theorem freeReply_freeReads (s : State) (v : Nat) : (s.freeReply v).freeReads = s.freeReads + 1 := rfl

end Sys2Proof.Machine.State
end

