-- ==== Sys2Proof/Laws/Memory.lean ====
section
/-! SUPPORT. The laws of the two memories: a read after a write, the canonical form and that every
operation keeps it, and that memories in canonical form with the same contents are equal. -/

namespace Sys2Proof.Machine

variable {α : Type}

namespace Memory

@[simp] theorem lookup_nil (a : Nat) : lookup ([] : List (Nat × α)) a = none := rfl

theorem lookup_cons (p : Nat × α) (m : List (Nat × α)) (a : Nat) :
    lookup (p :: m) a = if a = p.1 then some p.2 else lookup m a := rfl

/-- A read after a write to the same address gives the value written. -/
@[simp] theorem lookup_write_self (m : List (Nat × α)) (a : Nat) (v : α) :
    lookup (write m a v) a = some v := by
  induction m with
  | nil => simp [write, lookup_cons]
  | cons p m ih =>
    unfold write
    split
    · simp [lookup_cons]
    · split
      · simp [lookup_cons]
      · rename_i h1 h2
        simp [lookup_cons, h2, ih]

/-- A write leaves every other address alone. -/
theorem lookup_write_other (m : List (Nat × α)) (a b : Nat) (v : α) (h : b ≠ a) :
    lookup (write m a v) b = lookup m b := by
  induction m with
  | nil => simp [write, lookup_cons, h]
  | cons p m ih =>
    unfold write
    split
    · simp [lookup_cons, h]
    · split
      · rename_i h1 h2
        subst h2
        simp [lookup_cons, h]
      · simp [lookup_cons, ih]

/-- The addresses of a memory in canonical form are above every address before it. -/
theorem wf_cons {n : Nat} (p : Nat × α) (m : List (Nat × α)) :
    wf n (p :: m) = true ↔ p.1 < n ∧ (∀ q ∈ m, p.1 < q.1) ∧ wf n m = true := by
  induction m generalizing p with
  | nil => simp [wf]
  | cons q m ih =>
    simp only [wf, Bool.and_eq_true, decide_eq_true_eq, ih, List.mem_cons, forall_eq_or_imp]
    constructor
    · rintro ⟨h1, h2, h3, h4⟩
      exact ⟨by omega, ⟨h1, fun r hr => by have := h3 r hr; omega⟩, h2, h3, h4⟩
    · rintro ⟨-, ⟨h1, -⟩, h2, h3, h4⟩
      exact ⟨h1, h2, h3, h4⟩

theorem mem_write {m : List (Nat × α)} {a : Nat} {v : α} {q : Nat × α} (h : q ∈ write m a v) :
    q = (a, v) ∨ q ∈ m := by
  induction m with
  | nil => simpa [write] using h
  | cons p m ih =>
    unfold write at h
    split at h
    · simpa using h
    · split at h
      · rcases List.mem_cons.1 h with h | h
        · exact .inl h
        · exact .inr (List.mem_cons_of_mem _ h)
      · rcases List.mem_cons.1 h with h | h
        · exact .inr (h ▸ List.mem_cons_self)
        · exact (ih h).imp_right (List.mem_cons_of_mem _)

/-- A write inside the size keeps the canonical form. -/
theorem wf_write {n : Nat} {m : List (Nat × α)} {a : Nat} (v : α) (hm : wf n m = true) (ha : a < n) :
    wf n (write m a v) = true := by
  induction m with
  | nil => simpa [write, wf] using ha
  | cons p m ih =>
    obtain ⟨h1, h2, h3⟩ := (wf_cons p m).1 hm
    unfold write
    split
    · rename_i hlt
      refine (wf_cons _ _).2 ⟨ha, ?_, hm⟩
      intro q hq
      rcases List.mem_cons.1 hq with hq | hq
      · subst hq; exact hlt
      · exact Nat.lt_trans hlt (h2 q hq)
    · split
      · rename_i heq
        exact (wf_cons _ _).2 ⟨ha, fun q hq => by have := h2 q hq; simp_all, h3⟩
      · rename_i hlt hne
        refine (wf_cons _ _).2 ⟨h1, ?_, ih h3⟩
        intro q hq
        rcases mem_write hq with hq | hq
        · subst hq; show p.1 < a; omega
        · exact h2 q hq

/-- Writing a string inside the size keeps the canonical form. -/
theorem wf_writeString {n : Nat} (bs : List α) : ∀ {m : List (Nat × α)} {a : Nat}, wf n m = true →
    a + bs.length ≤ n → wf n (writeString m a bs) = true := by
  induction bs with
  | nil => intro m a hm _; exact hm
  | cons b bs ih =>
    intro m a hm ha
    simp only [List.length_cons] at ha
    exact ih (wf_write b hm (by omega)) (by omega)

/-- A string write leaves every address outside the string alone. -/
theorem lookup_writeString_outside (bs : List α) : ∀ (m : List (Nat × α)) (a c : Nat),
    c < a ∨ a + bs.length ≤ c → lookup (writeString m a bs) c = lookup m c := by
  induction bs with
  | nil => intro m a c _; rfl
  | cons b bs ih =>
    intro m a c h
    simp only [List.length_cons] at h
    rw [writeString, ih _ _ _ (by omega), lookup_write_other _ _ _ _ (by omega)]

/-- The `i`-th byte of a string written at `a` is read back at `a + i`. -/
theorem lookup_writeString_inside (bs : List α) : ∀ (m : List (Nat × α)) (a i : Nat) (h : i < bs.length),
    lookup (writeString m a bs) (a + i) = some bs[i] := by
  induction bs with
  | nil => intro m a i h; simp at h
  | cons b bs ih =>
    intro m a i h
    rw [writeString]
    cases i with
    | zero =>
      rw [lookup_writeString_outside _ _ _ _ (by omega)]
      simp
    | succ i =>
      have := ih (write m a b) (a + 1) i (by simpa using h)
      rw [show a + (i + 1) = a + 1 + i by omega, this]
      simp

theorem lookup_eq_none_of_lt {n : Nat} {m : List (Nat × α)} (hm : wf n m = true) {a : Nat}
    (h : ∀ q ∈ m, a < q.1) : lookup m a = none := by
  induction m with
  | nil => rfl
  | cons p m ih =>
    have hp := h p List.mem_cons_self
    rw [lookup_cons, if_neg (by omega)]
    exact ih ((wf_cons p m).1 hm).2.2 fun q hq => h q (List.mem_cons_of_mem _ hq)

/-- Two memories in canonical form with the same contents at every address are the same list. -/
theorem ext_of_wf {n : Nat} {m₁ m₂ : List (Nat × α)} (h₁ : wf n m₁ = true) (h₂ : wf n m₂ = true)
    (h : ∀ a, lookup m₁ a = lookup m₂ a) : m₁ = m₂ := by
  induction m₁ generalizing m₂ with
  | nil =>
    cases m₂ with
    | nil => rfl
    | cons q m₂ => have := h q.1; simp [lookup_cons] at this
  | cons p m₁ ih =>
    cases m₂ with
    | nil => have := h p.1; simp [lookup_cons] at this
    | cons q m₂ =>
      obtain ⟨-, hp, hm₁⟩ := (wf_cons p m₁).1 h₁
      obtain ⟨-, hq, hm₂⟩ := (wf_cons q m₂).1 h₂
      have key : p.1 = q.1 := by
        rcases Nat.lt_trichotomy p.1 q.1 with hlt | heq | hgt
        · have := h p.1
          rw [lookup_cons, if_pos rfl, lookup_cons, if_neg (by omega),
            lookup_eq_none_of_lt hm₂ fun r hr => by have := hq r hr; omega] at this
          simp at this
        · exact heq
        · have := h q.1
          rw [lookup_cons, if_neg (by omega), lookup_cons, if_pos rfl,
            lookup_eq_none_of_lt hm₁ fun r hr => by have := hp r hr; omega] at this
          simp at this
      have val : p.2 = q.2 := by
        have := h p.1
        rw [lookup_cons, if_pos rfl, lookup_cons, if_pos key] at this
        exact Option.some.inj this
      have rest : m₁ = m₂ := by
        refine ih hm₁ hm₂ fun a => ?_
        by_cases ha : a = p.1
        · subst ha
          rw [lookup_eq_none_of_lt hm₁ hp, lookup_eq_none_of_lt hm₂ fun r hr => key ▸ hq r hr]
        · have := h a
          rwa [lookup_cons, if_neg ha, lookup_cons, if_neg (key ▸ ha)] at this
      rw [rest, Prod.ext key val]

end Memory

namespace State

/-- A byte read depends only on octet memory and the launch. -/
theorem omRead_congr {s t : State} (h₁ : s.om = t.om) (h₂ : s.launch = t.launch) (a : Nat) :
    s.omRead a = t.omRead a := by simp [omRead, h₁, h₂]

/-- Outside the bytes stored, every byte reads as before. -/
theorem omRead_setOM_outside (s : State) (a c : Nat) (bs : List Byte) (h : c < a ∨ a + bs.length ≤ c) :
    (s.setOM a bs).omRead c = s.omRead c := by
  simp [omRead, Memory.lookup_writeString_outside bs s.om a c h]

/-- Inside the bytes stored, each reads as stored. -/
theorem omRead_setOM_inside (s : State) (a i : Nat) (bs : List Byte) (h : i < bs.length) :
    (s.setOM a bs).omRead (a + i) = bs[i] := by
  simp [omRead, Memory.lookup_writeString_inside bs s.om a i h]

@[simp] theorem octets_length (s : State) (n : Nat) : ∀ a, (s.octets a n).length = n := by
  induction n with
  | zero => intro a; rfl
  | succ n ih => intro a; simp [octets, ih]

theorem octets_getElem (s : State) (n : Nat) : ∀ (a i : Nat) (h : i < (s.octets a n).length),
    (s.octets a n)[i] = s.omRead (a + i) := by
  induction n with
  | zero => intro a i h; simp at h
  | succ n ih =>
    intro a i h
    cases i with
    | zero => simp [octets]
    | succ i => simp [octets, ih, Nat.add_comm 1 i, Nat.add_assoc]

/-- The string stored is the string read back (20_memory.md R59). -/
theorem octets_setOM (s : State) (a : Nat) (bs : List Byte) :
    (s.setOM a bs).octets a bs.length = bs := by
  apply List.ext_getElem (by simp)
  intro i h₁ h₂
  rw [octets_getElem, omRead_setOM_inside _ _ _ _ h₂]

/-- A cell of command memory reads as written. -/
theorem cmRead_setCM_self (s : State) (i : Nat) (w : Word) : (s.setCM i w).cmRead i = w := by
  simp [cmRead]

/-- The other cells read as before. -/
theorem cmRead_setCM_other (s : State) (i j : Nat) (w : Word) (h : j ≠ i) :
    (s.setCM i w).cmRead j = s.cmRead j := by
  simp [cmRead, Memory.lookup_write_other s.cm i j w h]

theorem memWf_iff (s : State) :
    s.memWf = true ↔ Memory.wf s.par.cmSize s.cm = true ∧ Memory.wf s.par.omSize s.om = true := by
  simp [memWf]

/-- A store of a cell inside command memory keeps both canonical forms. -/
theorem memWf_setCM (s : State) (i : Nat) (w : Word) (h : s.memWf = true) (hi : i < s.par.cmSize) :
    (s.setCM i w).memWf = true := by
  rw [memWf_iff] at *
  exact ⟨Memory.wf_write w h.1 hi, h.2⟩

/-- A store inside octet memory keeps both canonical forms. -/
theorem memWf_setOM (s : State) (a : Nat) (bs : List Byte) (h : s.memWf = true)
    (ha : a + bs.length ≤ s.par.omSize) : (s.setOM a bs).memWf = true := by
  rw [memWf_iff] at *
  exact ⟨h.1, Memory.wf_writeString bs h.2 ha⟩

/-- The reset state's memories are in canonical form. -/
theorem memWf_reset : State.reset.memWf = true := by decide

end State
end Sys2Proof.Machine
end

