-- ==== Sys2Proof/Laws/Ops.lean ====
section
/-! SUPPORT. For each shared operation, once, everything it can do.  A lemma named `…_next` reads: if the
operation answers `next t`, one of these cases holds; the proofs about commands cite these and do not
unfold the operations. -/

namespace Sys2Proof.Machine

/-! ## Fitting and faulting, in the words of the claims -/

/-- `natLen` is the least `t` with `n < 2^t` (00_scope.md R13). -/
theorem natLen_le_iff (n t : Nat) : natLen n ≤ t ↔ n < 2 ^ t := by
  unfold natLen
  split
  · next h => subst h; simp
  · next h => rw [Nat.succ_le_iff, Nat.log2_lt h]

/-- The capacity check says what `Fits` says (00_scope.md R9). -/
theorem fits_iff (s : State) (v : Int) : s.fits v = true ↔ Fits s v := by
  unfold State.fits Fits
  cases h : s.par.capBits with
  | none => simp
  | some c => simp [maglen, natLen_le_iff]

@[simp] theorem faultEntry_eq (s : State) (K : FaultKind) : s.faultEntry K = faulted s K := rfl

@[simp] theorem raise_eq (s : State) (K : FaultKind) : s.raise K = .next (faulted s K) := rfl

theorem written_eq (s : State) (rd : XReg) (v : Int) : (s.setX rd v).advance = written s rd v := rfl

namespace State
variable {s t : State}

/-! ## Operands -/

theorem readX_some {i : XReg} {v : Int} (h : s.x.get i = some v) (f : Int → Answer) :
    s.readX i f = f v := by simp [readX, h]

theorem readX_none {i : XReg} (h : s.x.get i = none) (f : Int → Answer) :
    s.readX i f = .next (faulted s .unsetRegister) := by simp [readX, h]

/-- Reading a source: the rest runs on the register's value, or `UnsetRegister` is taken. -/
theorem readX_next {i : XReg} {f : Int → Answer} (h : s.readX i f = .next t) :
    (∃ v, s.x.get i = some v ∧ f v = .next t) ∨
      (s.x.get i = none ∧ t = faulted s .unsetRegister) := by
  cases hx : s.x.get i with
  | some v => exact .inl ⟨v, rfl, by rwa [readX_some hx] at h⟩
  | none => rw [readX_none hx] at h; exact .inr ⟨rfl, (Host.Outcome.next.inj h).symm⟩

theorem readK_some {j : KReg} {v : Int} (h : s.k.get j = some v) (f : Int → Answer) :
    s.readK j f = f v := by simp [readK, h]

theorem readK_none {j : KReg} (h : s.k.get j = none) (f : Int → Answer) :
    s.readK j f = .next (faulted s .unsetRegister) := by simp [readK, h]

/-- Reading a key register: the rest runs on its value, or `UnsetRegister` is taken. -/
theorem readK_next {j : KReg} {f : Int → Answer} (h : s.readK j f = .next t) :
    (∃ v, s.k.get j = some v ∧ f v = .next t) ∨
      (s.k.get j = none ∧ t = faulted s .unsetRegister) := by
  cases hx : s.k.get j with
  | some v => exact .inl ⟨v, rfl, by rwa [readK_some hx] at h⟩
  | none => rw [readK_none hx] at h; exact .inr ⟨rfl, (Host.Outcome.next.inj h).symm⟩

@[simp] theorem check_false (K : FaultKind) (r : Answer) : s.check false K r = r := rfl

@[simp] theorem check_true (K : FaultKind) (r : Answer) :
    s.check true K r = .next (faulted s K) := rfl

/-- A check: the rest runs, or its kind is taken. -/
theorem check_next {b : Bool} {K : FaultKind} {r : Answer} (h : s.check b K r = .next t) :
    (b = false ∧ r = .next t) ∨ (b = true ∧ t = faulted s K) := by
  cases b
  · exact .inl ⟨rfl, h⟩
  · exact .inr ⟨rfl, (Host.Outcome.next.inj h).symm⟩

@[simp] theorem value_ok (v : Int) (f : Int → Answer) : s.value (.ok v) f = f v := rfl

@[simp] theorem value_error (K : FaultKind) (f : Int → Answer) :
    s.value (.error K) f = .next (faulted s K) := rfl

/-- The value of a function: the rest runs on it, or the function's raise is taken. -/
theorem value_next {e : Except FaultKind Int} {f : Int → Answer} (h : s.value e f = .next t) :
    (∃ v, e = .ok v ∧ f v = .next t) ∨ (∃ K, e = .error K ∧ t = faulted s K) := by
  cases e with
  | ok v => exact .inl ⟨v, rfl, h⟩
  | error K => exact .inr ⟨K, rfl, (Host.Outcome.next.inj h).symm⟩

theorem writeX_fits {rd : XReg} {v : Int} (h : Fits s v) : s.writeX rd v = .next (written s rd v) := by
  simp [writeX, (fits_iff s v).2 h, written_eq]

theorem writeX_not_fits {rd : XReg} {v : Int} (h : ¬ Fits s v) :
    s.writeX rd v = .next (faulted s .capacityFault) := by
  rw [← fits_iff] at h; simp [writeX, h]

/-- Writing a destination: the value stands there and `pc` has moved on, or `CapacityFault` is taken. -/
theorem writeX_next {rd : XReg} {v : Int} (h : s.writeX rd v = .next t) :
    (Fits s v ∧ t = written s rd v) ∨ (¬ Fits s v ∧ t = faulted s .capacityFault) := by
  by_cases hv : Fits s v
  · rw [writeX_fits hv] at h; exact .inl ⟨hv, (Host.Outcome.next.inj h).symm⟩
  · rw [writeX_not_fits hv] at h; exact .inr ⟨hv, (Host.Outcome.next.inj h).symm⟩

/-- Writing a key register, as for `writeX`. -/
theorem writeK_next {j : KReg} {v : Int} (h : s.writeK j v = .next t) :
    (Fits s v ∧ t = (s.setK j v).advance) ∨ (¬ Fits s v ∧ t = faulted s .capacityFault) := by
  by_cases hv : Fits s v
  · simp only [writeK, (fits_iff s v).2 hv, if_true] at h
    exact .inl ⟨hv, (Host.Outcome.next.inj h).symm⟩
  · have hf : s.fits v = false := by rw [← Bool.not_eq_true, fits_iff]; exact hv
    simp only [writeK, hf] at h
    exact .inr ⟨hv, (Host.Outcome.next.inj h).symm⟩

/-- A load: the rest runs on the bytes, or `OctetAccess` is taken. -/
theorem memRead_next {f : List Byte → Answer} (h : s.memRead f = .next t) :
    (s.ptr.toNat + s.len.toNat ≤ s.par.omSize ∧ f (s.octets s.ptr.toNat s.len.toNat) = .next t) ∨
      (s.par.omSize < s.ptr.toNat + s.len.toNat ∧ t = faulted s .octetAccess) := by
  unfold memRead at h
  split at h
  · next hb => exact .inr ⟨hb, (Host.Outcome.next.inj h).symm⟩
  · next hb => exact .inl ⟨by omega, h⟩

/-- A store: the rest runs with all bytes stored, or `OctetAccess` is taken with none stored. -/
theorem memWrite_next {bs : List Byte} {f : State → Answer} (h : s.memWrite bs f = .next t) :
    (s.ptr.toNat + bs.length ≤ s.par.omSize ∧ f (s.setOM s.ptr.toNat bs) = .next t) ∨
      (s.par.omSize < s.ptr.toNat + bs.length ∧ t = faulted s .octetAccess) := by
  unfold memWrite at h
  split at h
  · next hb => exact .inr ⟨hb, (Host.Outcome.next.inj h).symm⟩
  · next hb => exact .inl ⟨by omega, h⟩

/-- A CSR write: the value stands there and `pc` has moved on, or `BadParameter` is taken. -/
theorem writeCsr_next {c : Csr} {mx : Nat} {v : Int} (h : s.writeCsr c mx v = .next t) :
    (0 ≤ v ∧ v ≤ mx ∧ t = (s.setCsr c v.toNat).advance) ∨
      ((v < 0 ∨ (mx : Int) < v) ∧ t = faulted s .badParameter) := by
  unfold writeCsr at h
  split at h
  · next hb => exact .inr ⟨hb, (Host.Outcome.next.inj h).symm⟩
  · next hb => exact .inl ⟨by omega, by omega, (Host.Outcome.next.inj h).symm⟩

/-- What a CSR write leaves alone: everything but `FLAGS`, `PTR`, `LEN`, `KFORM`, `IE`. -/
theorem setCsr_frame (c : Csr) (v : Nat) :
    s.setCsr c v = { s with
      flags := (s.setCsr c v).flags, ptr := (s.setCsr c v).ptr, len := (s.setCsr c v).len,
      kform := (s.setCsr c v).kform, ie := (s.setCsr c v).ie } := by
  cases c <;> rfl

/-! ## Flags -/

theorem packFlags_getLsbD (t z n : Bool) :
    (packFlags t z n).getLsbD 0 = t ∧ (packFlags t z n).getLsbD 1 = z ∧
      (packFlags t z n).getLsbD 2 = n := by
  revert t z n; decide

/-- A branch only moves `pc`. -/
theorem branch_next {b : Bool} {a : BitVec 16} (h : s.branch b a = .next t) :
    t = { s with pc := if b then a else s.pc + 1 } := by
  cases b <;> exact (Host.Outcome.next.inj h).symm

/-! ## The compound operations -/

/-- `ModInverse` and `ModPow` raise `BadParameter` only (41_modular.md R111, R114). -/
theorem modInverse_error {a n : Int} {K : FaultKind} (h : modInverse a n = .error K) :
    K = .badParameter := by
  unfold modInverse at h
  split_ifs at h <;> simp_all

theorem modPow_error {b e m : Int} {K : FaultKind} (h : modPow b e m = .error K) :
    K = .badParameter := by
  unfold modPow at h
  split_ifs at h
  · simp_all
  · exact modInverse_error h

/-- A public-key primitive ends by writing its register or by a fault, nothing else. -/
theorem publicPower_next {K : FaultKind} {rd ra : XReg} {w : State → State} (hw : w s = s)
    (h : publicPower K w rd ra s = .next t) :
    (∃ v, Fits s v ∧ t = written s rd v) ∨
      (∃ K', t = faulted s K' ∧ (K' = .unsetRegister ∨ K' = K ∨ K' = .badParameter ∨ K' = .capacityFault)) := by
  rcases readX_next h with ⟨m, -, h⟩ | ⟨-, h⟩
  · rcases readK_next h with ⟨n, -, h⟩ | ⟨-, h⟩
    · rcases readK_next h with ⟨e, -, h⟩ | ⟨-, h⟩
      · rcases check_next h with ⟨-, h⟩ | ⟨-, h⟩
        · rcases value_next h with ⟨v, -, h⟩ | ⟨K', hK', h⟩
          · rw [hw] at h
            rcases writeX_next h with ⟨hv, h⟩ | ⟨-, h⟩
            · exact .inl ⟨v, hv, h⟩
            · exact .inr ⟨_, h, by simp⟩
          · exact .inr ⟨_, h, by simp [modPow_error hK']⟩
        · exact .inr ⟨_, h, by simp⟩
      · exact .inr ⟨_, h, by simp⟩
    · exact .inr ⟨_, h, by simp⟩
  · exact .inr ⟨_, h, by simp⟩

theorem rsaPrivMod_error {n d c : Int} {K : FaultKind} (h : rsaPrivMod n d c = .error K) :
    K = .badParameter := by
  unfold rsaPrivMod at h
  split_ifs at h
  · simp_all
  · exact modPow_error h

theorem rsaPrivCrt_error {R K : FaultKind} {n p q dP dQ qInv c : Int}
    (h : rsaPrivCrt R n p q dP dQ qInv c = .error K) : K = R ∨ K = .badParameter := by
  unfold rsaPrivCrt at h
  split_ifs at h
  · exact .inl (Except.error.inj h).symm
  · split at h
    · next K' h1 => exact .inr ((Except.error.inj h) ▸ modPow_error h1)
    · split at h
      · next K' h2 => exact .inr ((Except.error.inj h) ▸ modPow_error h2)
      · cases h

/-- A private-key primitive ends by writing its register or by a fault, nothing else. -/
theorem rsaPriv_next {R : FaultKind} {rd ra : XReg} (h : rsaPriv R rd ra s = .next t) :
    (∃ v, Fits s v ∧ t = written s rd v) ∨
      (∃ K, t = faulted s K ∧ (K = .unsetRegister ∨ K = R ∨ K = .badParameter ∨ K = .capacityFault)) := by
  have fin : ∀ {e : Except FaultKind Int}, (∀ K, e = .error K → K = R ∨ K = .badParameter) →
      (s.value e fun v => s.writeX rd v) = .next t →
      (∃ v, Fits s v ∧ t = written s rd v) ∨
      (∃ K, t = faulted s K ∧ (K = .unsetRegister ∨ K = R ∨ K = .badParameter ∨ K = .capacityFault)) := by
    intro e he h
    rcases value_next h with ⟨v, -, h⟩ | ⟨K, hK, h⟩
    · rcases writeX_next h with ⟨hv, h⟩ | ⟨-, h⟩
      · exact .inl ⟨v, hv, h⟩
      · exact .inr ⟨_, h, by simp⟩
    · exact .inr ⟨K, h, by have := he K hK; tauto⟩
  have stop : t = faulted s .unsetRegister → (∃ v, Fits s v ∧ t = written s rd v) ∨
      (∃ K, t = faulted s K ∧ (K = .unsetRegister ∨ K = R ∨ K = .badParameter ∨ K = .capacityFault)) :=
    fun h => .inr ⟨_, h, by simp⟩
  rcases readX_next h with ⟨c, -, h⟩ | ⟨-, h⟩
  · split at h
    · exact .inr ⟨.badParameter, (Host.Outcome.next.inj h).symm, by simp⟩
    · rcases readK_next h with ⟨n, -, h⟩ | ⟨-, h⟩
      · rcases readK_next h with ⟨d, -, h⟩ | ⟨-, h⟩
        · exact fin (fun K hK => .inr (rsaPrivMod_error hK)) h
        · exact stop h
      · exact stop h
    · rcases readK_next h with ⟨n, -, h⟩ | ⟨-, h⟩
      · rcases readK_next h with ⟨p, -, h⟩ | ⟨-, h⟩
        · rcases readK_next h with ⟨q, -, h⟩ | ⟨-, h⟩
          · rcases readK_next h with ⟨dP, -, h⟩ | ⟨-, h⟩
            · rcases readK_next h with ⟨dQ, -, h⟩ | ⟨-, h⟩
              · rcases readK_next h with ⟨qInv, -, h⟩ | ⟨-, h⟩
                · exact fin (fun K hK => rsaPrivCrt_error hK) h
                · exact stop h
              · exact stop h
            · exact stop h
          · exact stop h
        · exact stop h
      · exact stop h
  · exact stop h

/-- Prime generation: refused, still in progress, done, or too large for the register. -/
theorem generatePrime_next {safe : Bool} {rd : XReg} {imm : Imm}
    (h : generatePrime safe rd imm s = .next t) :
    (imm.toNat < 5 ∧ t = faulted s .badParameter) ∨
    (5 ≤ imm.toNat ∧ ∃ g, primeGen imm.toNat safe Config.genAttempts s.rng = (none, g) ∧
      t = s.setRng g) ∨
    (5 ≤ imm.toNat ∧ ∃ p g, primeGen imm.toNat safe Config.genAttempts s.rng = (some p, g) ∧
      ((Fits s p ∧ t = written (s.setRng g) rd p) ∨
        (¬ Fits s p ∧ t = faulted (s.setRng g) .capacityFault))) := by
  rcases check_next h with ⟨hb, h⟩ | ⟨hb, h⟩
  · have h5 : 5 ≤ imm.toNat := by simpa using hb
    split at h
    · next g hg => exact .inr (.inl ⟨h5, g, hg, (Host.Outcome.next.inj h).symm⟩)
    · next p g hg => exact .inr (.inr ⟨h5, p, g, hg, writeX_next h⟩)
  · exact .inl ⟨by simpa using hb, h⟩

/-- Installing a generated key: all of it, or nothing and `CapacityFault`. -/
theorem installKey_next {bank : Vector (Option Int) 9} {f : KForm} (h : installKey bank f s = .next t) :
    ((∀ v, some v ∈ bank.toList → Fits s v) ∧ t = ((s.setKeys bank).setKform f).advance) ∨
      (¬ (∀ v, some v ∈ bank.toList → Fits s v) ∧ t = faulted s .capacityFault) := by
  have key : (bank.toList.all fun v => v.all s.fits) = true ↔ ∀ v, some v ∈ bank.toList → Fits s v := by
    rw [List.all_eq_true]
    constructor
    · intro h v hv
      have := h _ hv
      rwa [Option.all_some, fits_iff] at this
    · intro h o ho
      cases o with
      | none => rfl
      | some v => rw [Option.all_some, fits_iff]; exact h v ho
  unfold installKey at h
  split at h
  · next hb => exact .inl ⟨key.1 hb, (Host.Outcome.next.inj h).symm⟩
  · next hb => exact .inr ⟨fun hall => hb (key.2 hall), (Host.Outcome.next.inj h).symm⟩

/-- Installing a modulus-form key: the whole bank, or a fault with nothing written. -/
theorem installModKey_next {p q : Nat} (h : installModKey p q s = .next t) :
    (∃ d, modInverse Config.pubExponent (keyPhi p q) = .ok d ∧
      (∀ v, some v ∈ (modKeyBank p q d).toList → Fits s v) ∧
      t = ((s.setKeys (modKeyBank p q d)).setKform .modKey).advance) ∨
    t = faulted s .badParameter ∨ t = faulted s .capacityFault := by
  rcases value_next h with ⟨d, hd, h⟩ | ⟨K, hK, h⟩
  · rcases installKey_next h with ⟨hf, h⟩ | ⟨-, h⟩
    · exact .inl ⟨d, hd, hf, h⟩
    · exact .inr (.inr h)
  · exact .inr (.inl (by rw [h, modInverse_error hK]))

/-- Installing a CRT-form key: the whole bank, or a fault with nothing written. -/
theorem installCrtKey_next {p q : Nat} (h : installCrtKey p q s = .next t) :
    (∃ d dP dQ qInv, modInverse Config.pubExponent (keyPhi p q) = .ok d ∧
      modInverse Config.pubExponent ((p : Int) - 1) = .ok dP ∧
      modInverse Config.pubExponent ((q : Int) - 1) = .ok dQ ∧ modInverse q p = .ok qInv ∧
      (∀ v, some v ∈ (crtKeyBank p q d dP dQ qInv).toList → Fits s v) ∧
      t = ((s.setKeys (crtKeyBank p q d dP dQ qInv)).setKform .crtKey).advance) ∨
    t = faulted s .badParameter ∨ t = faulted s .capacityFault := by
  rcases value_next h with ⟨d, hd, h⟩ | ⟨K, hK, h⟩
  · rcases value_next h with ⟨dP, hdP, h⟩ | ⟨K, hK, h⟩
    · rcases value_next h with ⟨dQ, hdQ, h⟩ | ⟨K, hK, h⟩
      · rcases value_next h with ⟨qInv, hqInv, h⟩ | ⟨K, hK, h⟩
        · rcases installKey_next h with ⟨hf, h⟩ | ⟨-, h⟩
          · exact .inl ⟨d, dP, dQ, qInv, hd, hdP, hdQ, hqInv, hf, h⟩
          · exact .inr (.inr h)
        · exact .inr (.inl (by rw [h, modInverse_error hK]))
      · exact .inr (.inl (by rw [h, modInverse_error hK]))
    · exact .inr (.inl (by rw [h, modInverse_error hK]))
  · exact .inr (.inl (by rw [h, modInverse_error hK]))

/-- Key generation: refused, still in progress, or both primes drawn and the key installed. -/
theorem generateKey_next {imm : Imm} {install : Nat → Nat → State → Answer}
    (h : generateKey imm install s = .next t) :
    (badKeyBits imm.toNat = true ∧ t = faulted s .badParameter) ∨
    (badKeyBits imm.toNat = false ∧ ∃ p g,
      keyGen imm.toNat Config.genAttempts s.work s.rng = (.more p, g) ∧ t = (s.setRng g).setWork p) ∨
    (badKeyBits imm.toNat = false ∧ ∃ p q g,
      keyGen imm.toNat Config.genAttempts s.work s.rng = (.done p q, g) ∧
        install p q ((s.setRng g).setWork none) = .next t) := by
  rcases check_next h with ⟨hb, h⟩ | ⟨hb, h⟩
  · split at h
    · next p g hg => exact .inr (.inl ⟨hb, p, g, hg, (Host.Outcome.next.inj h).symm⟩)
    · next p q g hg => exact .inr (.inr ⟨hb, p, q, g, hg, h⟩)
  · exact .inl ⟨hb, h⟩

end State

/-! ## The step -/

/-- One engine step: a command's meaning, one of the two faults before it, or no step at all
(46_control.md R215). -/
theorem engineStep_next {s t : State} (h : engineStep s = .next t) :
    (s.status = .running ∧ s.fetch = none ∧ t = faulted s .fetchFault) ∨
    (s.status = .running ∧ (∃ w r, s.fetch = some w ∧ decode w = .error r) ∧
      t = faulted s .illegalCommand) ∨
    (s.status = .running ∧ ∃ w i, s.fetch = some w ∧ decode w = .ok i ∧ exec i s = .next t) ∨
    (s.status ≠ .running ∧ t = s) := by
  unfold engineStep at h
  split at h
  · next hs =>
    split at h
    · next hf => exact .inl ⟨hs, hf, (Host.Outcome.next.inj h).symm⟩
    · next w hf =>
      split at h
      · next r hd => exact .inr (.inl ⟨hs, ⟨w, r, hf, hd⟩, (Host.Outcome.next.inj h).symm⟩)
      · next i hd => exact .inr (.inr (.inl ⟨hs, w, i, hf, hd, h⟩))
  all_goals
    next hs => exact .inr (.inr (.inr ⟨by simp [hs], (Host.Outcome.next.inj h).symm⟩))

/-- One step: the engine's, or a host move's. -/
theorem step_next {s t : State} (h : step s = .next t) :
    (s.host = [] ∧ engineStep s = .next t) ∨
    (∃ rest, s.host = .wait :: rest ∧ engineStep { s with host := rest } = .next t) ∨
    (∃ m rest, s.host = m :: rest ∧ m ≠ .wait ∧ State.hostMove { s with host := rest } m = .next t) := by
  unfold step at h
  split at h
  · next hh => exact .inl ⟨hh, h⟩
  · next rest hh => exact .inr (.inl ⟨rest, hh, h⟩)
  · next m rest hne hh => exact .inr (.inr ⟨m, rest, hh, fun e => hne (by simp [e] at *), h⟩)

/-- A host move that answers a next state: the operation of its name, inside its domain. -/
theorem hostMove_next {s t : State} {m : HostMove} (h : s.hostMove m = .next t) :
    (m = .wait ∧ t = s) ∨
    (∃ i w, m = .writeCM i w ∧ i.toNat < s.par.cmSize ∧ t = s.hostWriteCM i.toNat w) ∨
    (∃ i, m = .readCM i ∧ i.toNat < s.par.cmSize ∧ t = s.hostReadCM i.toNat) ∨
    (∃ a b, m = .writeOM a b ∧ a.toNat < s.par.omSize ∧ t = s.hostWriteOM a.toNat b) ∨
    (∃ a, m = .readOM a ∧ a.toNat < s.par.omSize ∧ t = s.hostReadOM a.toNat) ∨
    (∃ e, m = .start e ∧ t = s.hostStart e) ∨ (m = .clear ∧ t = s.hostClear) ∨
    (m = .reset ∧ t = s.hostReset) ∨ (∃ c, m = .readCSR c ∧ t = s.hostReadCSR c) ∨
    (∃ v, m = .writeIE v ∧ t = s.hostWriteIE v) := by
  cases m <;> simp only [State.hostMove] at h <;> (try split at h) <;>
    first
      | (cases h; simp_all)
      | (simp at h)

end Sys2Proof.Machine
end

