-- ==== Sys2Proof/Laws/Exec.lean ====
section
/-! SUPPORT. What one command can do to the state, once for all commands: `exec_effect` turns an answer
`next t` into one of the cases of `Effect`, and the whole-machine rules follow from the cases without
unfolding a meaning. -/

namespace Sys2Proof.Machine

/-- The kinds a command may raise, with what each of the spec's own kinds needs (60_exceptions.md R238,
R239). -/
def MayRaise (i : Instr) (s : State) : FaultKind → Prop
  | .badParameter => mayRaiseBadParameter i = true
  | .encoding => False
  | .decryption => s.kform = .crtKey ∧ ∃ rd ra, i = .rsadp rd ra
  | .signature => ∃ rd ra, i = .rsavp1 rd ra
  | .illegalCommand => i.wf = false
  | .capacityFault => ∃ c, s.par.capBits = some c
  | .octetAccess => accessesOctets i = true
  | .unsetRegister => (∃ r ∈ sourcesOf i, s.x.get r = none) ∨
      ∃ j, s.k.get j = none ∧ ∃ rd ra, i = .kget rd j ∨ i = .rsaep rd ra ∨ i = .rsavp1 rd ra ∨
        i = .rsadp rd ra ∨ i = .rsasp1 rd ra
  | .fetchFault => False

/-- The state after a key generation that installed `bank`. -/
def keyInstalled (s : State) (bank : Vector (Option Int) 9) (f : KForm) (g : Rng) : State :=
  { s with k := bank, kform := f, rng := g, work := none, pc := s.pc + 1 }

/-- What command `i` may have made of state `s`. -/
inductive Effect (i : Instr) (s : State) : State → Prop
  /-- A fault, taken; nothing else has happened. -/
  | fault (K : FaultKind) (hK : MayRaise i s K) : Effect i s (faulted s K)
  /-- The destination register is written. -/
  | wrote (rd : XReg) (v : Int) (hd : destOf i = some rd) (hv : Fits s v) : Effect i s (written s rd v)
  /-- `HALT`. -/
  | halted (h : i = .halt) : Effect i s { s with status := .done }
  /-- `NOP`. -/
  | passed (h : i = .nop) : Effect i s { s with pc := s.pc + 1 }
  /-- A branch. -/
  | branched (a : Imm) (c : Bool) (h : branchOutcome s i = some (a, c)) :
      Effect i s { s with pc := if c then a else s.pc + 1 }
  /-- A CSR write. -/
  | csr (c : Csr) (v : Nat) (h : (∃ ra, i = .csrw c ra) ∨ ∃ imm, i = .csrwi c imm) :
      Effect i s (s.setCsr c v).advance
  /-- `CMP`. -/
  | compared (ra rb : XReg) (z n : Bool) (h : i = .cmp ra rb) :
      Effect i s { s with flags := packFlags s.flagT z n, pc := s.pc + 1 }
  /-- `TESTBIT` or `PTEST`. -/
  | tested (ra : XReg) (imm : Imm) (b : Bool) (g : Rng)
      (h : (i = .testbit ra imm ∧ g = s.rng) ∨ i = .ptest ra imm) :
      Effect i s { s with flags := packFlags b s.flagZ s.flagN, rng := g, pc := s.pc + 1 }
  /-- `ENC`. -/
  | encoded (ra : XReg) (v : Int) (h : i = .enc ra) (hx : s.x.get ra = some v)
      (hb : s.ptr.toNat + (encOctets v.toNat).length ≤ s.par.omSize) :
      Effect i s ((s.setOM s.ptr.toNat (encOctets v.toNat)).setLen
        (BitVec.ofNat 16 (encOctets v.toNat).length)).advance
  /-- `I2OSP`. -/
  | stored (ra : XReg) (v : Int) (h : i = .i2osp ra) (hx : s.x.get ra = some v) (h0 : 0 ≤ v)
      (hm : (mag v.toNat).length ≤ s.len.toNat) (hb : s.ptr.toNat + s.len.toNat ≤ s.par.omSize) :
      Effect i s (s.setOM s.ptr.toNat (padded s.len.toNat v.toNat)).advance
  /-- `KPUT`. -/
  | keyPut (j : KReg) (ra : XReg) (v : Int) (h : i = .kput j ra) (hv : Fits s v) :
      Effect i s (s.setK j v).advance
  /-- `PGEN` or `PGENS` still looping (log 4). -/
  | primeWait (rd : XReg) (imm : Imm) (g : Rng) (h : i = .pgen rd imm ∨ i = .pgens rd imm) :
      Effect i s (s.setRng g)
  /-- `PGEN` or `PGENS` completed. -/
  | primeDone (rd : XReg) (imm : Imm) (g : Rng) (p : Nat) (h : i = .pgen rd imm ∨ i = .pgens rd imm)
      (hv : Fits s p) : Effect i s (written (s.setRng g) rd p)
  /-- `PGEN` or `PGENS` with a result that does not fit. -/
  | primeFault (rd : XReg) (imm : Imm) (g : Rng) (h : i = .pgen rd imm ∨ i = .pgens rd imm)
      (hc : ∃ c, s.par.capBits = some c) : Effect i s (faulted (s.setRng g) .capacityFault)
  /-- `KEYGEN` or `KEYGENC` still looping (log 4). -/
  | keyWait (imm : Imm) (g : Rng) (p : Option Nat) (h : i = .keygen imm ∨ i = .keygenc imm)
      (hb : badKeyBits imm.toNat = false)
      (hg : keyGen imm.toNat Config.genAttempts s.work s.rng = (.more p, g)) :
      Effect i s ((s.setRng g).setWork p)
  /-- `KEYGEN` completed. -/
  | modKeyDone (imm : Imm) (g : Rng) (p q : Nat) (d : Int) (h : i = .keygen imm)
      (hv : ∀ v, some v ∈ (modKeyBank p q d).toList → Fits s v) :
      Effect i s (keyInstalled s (modKeyBank p q d) .modKey g)
  /-- `KEYGENC` completed. -/
  | crtKeyDone (imm : Imm) (g : Rng) (p q : Nat) (d dP dQ qInv : Int) (h : i = .keygenc imm)
      (hv : ∀ v, some v ∈ (crtKeyBank p q d dP dQ qInv).toList → Fits s v) :
      Effect i s (keyInstalled s (crtKeyBank p q d dP dQ qInv) .crtKey g)
  /-- `KEYGEN` or `KEYGENC` refusing its key after the draws. -/
  | keyFault (imm : Imm) (g : Rng) (K : FaultKind) (h : i = .keygen imm ∨ i = .keygenc imm)
      (hb : badKeyBits imm.toNat = false)
      (hK : K = .badParameter ∨ (K = .capacityFault ∧ ∃ c, s.par.capBits = some c)) :
      Effect i s (faulted ((s.setRng g).setWork none) K)

theorem capBits_of_not_fits {s : State} {v : Int} (h : ¬ Fits s v) : ∃ c, s.par.capBits = some c := by
  unfold Fits at h
  push Not at h
  exact h.imp fun c hc => hc.1

open State

variable {i : Instr} {s t : State}

/-- A command that ends by writing its destination. -/
theorem effect_writeX {rd : XReg} {v : Int} (hd : destOf i = some rd) (h : s.writeX rd v = .next t) :
    Effect i s t := by
  rcases writeX_next h with ⟨hv, rfl⟩ | ⟨hv, rfl⟩
  · exact .wrote rd v hd hv
  · exact .fault _ (capBits_of_not_fits hv)

/-- A command that reads a source first. -/
theorem effect_readX {r : XReg} {f : Int → Answer} (hr : r ∈ sourcesOf i)
    (hf : ∀ v, s.x.get r = some v → f v = .next t → Effect i s t) (h : s.readX r f = .next t) :
    Effect i s t := by
  rcases readX_next h with ⟨v, hx, h⟩ | ⟨hx, rfl⟩
  · exact hf v hx h
  · exact .fault _ (.inl ⟨r, hr, hx⟩)

/-- A command that checks a parameter. -/
theorem effect_check {b : Bool} {r : Answer} (hi : mayRaiseBadParameter i = true)
    (hf : b = false → r = .next t → Effect i s t) (h : s.check b .badParameter r = .next t) :
    Effect i s t := by
  rcases check_next h with ⟨hb, h⟩ | ⟨-, rfl⟩
  · exact hf hb h
  · exact .fault _ hi

/-- A command that ends by writing the value of a function that may refuse. -/
theorem effect_value {rd : XReg} {e : Except FaultKind Int} (hd : destOf i = some rd)
    (he : ∀ K, e = .error K → MayRaise i s K)
    (h : (s.value e fun v => s.writeX rd v) = .next t) : Effect i s t := by
  rcases value_next h with ⟨v, -, h⟩ | ⟨K, hK, rfl⟩
  · exact effect_writeX hd h
  · exact .fault _ (he K hK)

/-- A command that reads a key register. -/
theorem effect_readK {j : KReg} {f : Int → Answer}
    (hj : ∃ rd ra, i = .kget rd j ∨ i = .rsaep rd ra ∨ i = .rsavp1 rd ra ∨ i = .rsadp rd ra ∨
      i = .rsasp1 rd ra)
    (hf : ∀ v, s.k.get j = some v → f v = .next t → Effect i s t) (h : s.readK j f = .next t) :
    Effect i s t := by
  rcases readK_next h with ⟨v, hk, h⟩ | ⟨hk, rfl⟩
  · exact hf v hk h
  · exact .fault _ (.inr ⟨j, hk, hj⟩)

/-- A CSR write inside its range. -/
theorem effect_csr {c : Csr} {mx : Nat} {v : Int} (hi : mayRaiseBadParameter i = true)
    (hc : (∃ ra, i = .csrw c ra) ∨ ∃ imm, i = .csrwi c imm) (h : s.writeCsr c mx v = .next t) :
    Effect i s t := by
  rcases writeCsr_next h with ⟨-, -, rfl⟩ | ⟨-, rfl⟩
  · exact .csr c v.toNat hc
  · exact .fault _ hi

/-- A load. -/
theorem effect_load {rd : XReg} {f : List Byte → Int} (hd : destOf i = some rd)
    (hi : accessesOctets i = true) (h : (s.memRead fun bs => s.writeX rd (f bs)) = .next t) :
    Effect i s t := by
  rcases memRead_next h with ⟨-, h⟩ | ⟨-, rfl⟩
  · exact effect_writeX hd h
  · exact .fault _ hi

/-- A private-key primitive. -/
theorem effect_rsaPriv {R : FaultKind} {rd ra : XReg} (hi : i = .rsadp rd ra ∨ i = .rsasp1 rd ra)
    (hR : s.kform = .crtKey → MayRaise i s R) (h : rsaPriv R rd ra s = .next t) : Effect i s t := by
  have hb : mayRaiseBadParameter i = true := by rcases hi with rfl | rfl <;> rfl
  have hd : destOf i = some rd := by rcases hi with rfl | rfl <;> rfl
  have hk : ∀ j, ∃ rd ra, i = .kget rd j ∨ i = .rsaep rd ra ∨ i = .rsavp1 rd ra ∨ i = .rsadp rd ra ∨
      i = .rsasp1 rd ra := fun _ => ⟨rd, ra, by rcases hi with rfl | rfl <;> simp⟩
  refine effect_readX (by rcases hi with rfl | rfl <;> simp [sourcesOf]) (fun c _ h => ?_) h
  split at h
  · obtain rfl := Host.Outcome.next.inj h
    exact .fault _ hb
  · refine effect_readK (hk 2) (fun n _ h => effect_readK (hk 3) (fun d _ h => ?_) h) h
    exact effect_value hd (fun K hK => rsaPrivMod_error hK ▸ hb) h
  · next hf =>
    refine effect_readK (hk 2) (fun n _ h => effect_readK (hk 4) (fun p _ h => effect_readK (hk 5)
      (fun q _ h => effect_readK (hk 6) (fun dP _ h => effect_readK (hk 7) (fun dQ _ h =>
        effect_readK (hk 8) (fun qInv _ h => ?_) h) h) h) h) h) h
    exact effect_value hd (fun K hK => (rsaPrivCrt_error hK).elim (· ▸ hR hf) (· ▸ hb)) h

/-- A public-key primitive. -/
theorem effect_publicPower {R : FaultKind} {w : State → State} {rd ra : XReg} (hw : w s = s)
    (hi : i = .rsaep rd ra ∨ i = .rsavp1 rd ra) (hR : MayRaise i s R)
    (h : publicPower R w rd ra s = .next t) : Effect i s t := by
  have hd : destOf i = some rd := by rcases hi with rfl | rfl <;> rfl
  have hk : ∀ j, ∃ rd ra, i = .kget rd j ∨ i = .rsaep rd ra ∨ i = .rsavp1 rd ra ∨ i = .rsadp rd ra ∨
      i = .rsasp1 rd ra := fun _ => ⟨rd, ra, by rcases hi with rfl | rfl <;> simp⟩
  refine effect_readX (by rcases hi with rfl | rfl <;> simp [sourcesOf]) (fun m _ h =>
    effect_readK (hk 0) (fun n _ h => effect_readK (hk 1) (fun e _ h => ?_) h) h) h
  rcases check_next h with ⟨-, h⟩ | ⟨-, rfl⟩
  · rw [hw] at h
    refine effect_value hd (fun K hK => ?_) h
    rw [modPow_error hK]
    rcases hi with rfl | rfl <;> rfl
  · exact .fault _ hR

/-- Prime generation. -/
theorem effect_generatePrime {safe : Bool} {rd : XReg} {imm : Imm}
    (hi : i = .pgen rd imm ∨ i = .pgens rd imm) (h : generatePrime safe rd imm s = .next t) :
    Effect i s t := by
  rcases generatePrime_next h with ⟨-, rfl⟩ | ⟨-, g, -, rfl⟩ | ⟨-, p, g, -, ⟨hv, rfl⟩ | ⟨hv, rfl⟩⟩
  · exact .fault _ (by rcases hi with rfl | rfl <;> rfl)
  · exact .primeWait rd imm g hi
  · exact .primeDone rd imm g p hi hv
  · exact .primeFault rd imm g hi (capBits_of_not_fits hv)

/-- `KEYGEN`. -/
theorem effect_keygen {imm : Imm} (h : execKeygen imm s = .next t) : Effect (.keygen imm) s t := by
  rcases generateKey_next h with ⟨-, rfl⟩ | ⟨hb, p, g, hg, rfl⟩ | ⟨hb, p, q, g, -, h⟩
  · exact .fault _ rfl
  · exact .keyWait imm g p (.inl rfl) hb hg
  · rcases value_next h with ⟨d, -, h⟩ | ⟨K, hK, rfl⟩
    · rcases installKey_next h with ⟨hv, rfl⟩ | ⟨hv, rfl⟩
      · exact .modKeyDone imm g p q d rfl hv
      · push Not at hv
        obtain ⟨v, -, hv⟩ := hv
        exact .keyFault imm g _ (.inl rfl) hb (.inr ⟨rfl, capBits_of_not_fits hv⟩)
    · exact .keyFault imm g K (.inl rfl) hb (.inl (modInverse_error hK))

/-- `KEYGENC`. -/
theorem effect_keygenc {imm : Imm} (h : execKeygenc imm s = .next t) : Effect (.keygenc imm) s t := by
  rcases generateKey_next h with ⟨-, rfl⟩ | ⟨hb, p, g, hg, rfl⟩ | ⟨hb, p, q, g, -, h⟩
  · exact .fault _ rfl
  · exact .keyWait imm g p (.inr rfl) hb hg
  · have stop : ∀ {K : FaultKind} {a n : Int}, modInverse a n = .error K →
        t = faulted ((s.setRng g).setWork none) K → Effect (.keygenc imm) s t := fun hK ht =>
      ht ▸ .keyFault imm g _ (.inr rfl) hb (.inl (modInverse_error hK))
    rcases value_next h with ⟨d, -, h⟩ | ⟨K, hK, ht⟩
    · rcases value_next h with ⟨dP, -, h⟩ | ⟨K, hK, ht⟩
      · rcases value_next h with ⟨dQ, -, h⟩ | ⟨K, hK, ht⟩
        · rcases value_next h with ⟨qInv, -, h⟩ | ⟨K, hK, ht⟩
          · rcases installKey_next h with ⟨hv, rfl⟩ | ⟨hv, rfl⟩
            · exact .crtKeyDone imm g p q d dP dQ qInv rfl hv
            · push Not at hv
              obtain ⟨v, -, hv⟩ := hv
              exact .keyFault imm g _ (.inr rfl) hb (.inr ⟨rfl, capBits_of_not_fits hv⟩)
          · exact stop hK ht
        · exact stop hK ht
      · exact stop hK ht
    · exact stop hK ht

theorem value_work {e : Except FaultKind Int} {f : Int → Answer}
    (hf : ∀ v, f v = .next t → t.work = s.work) (h : s.value e f = .next t) : t.work = s.work := by
  rcases value_next h with ⟨v, -, h⟩ | ⟨K, -, rfl⟩
  · exact hf v h
  · rfl

theorem installKey_work {bank : Vector (Option Int) 9} {f : KForm} (h : installKey bank f s = .next t) :
    t.work = s.work := by
  rcases installKey_next h with ⟨-, rfl⟩ | ⟨-, rfl⟩ <;> rfl

/-- What a key generation with a legal length makes of its progress: it ends, or stays in progress where
the loops left it. -/
theorem exec_keygen_work {imm : Imm} (hi : i = .keygen imm ∨ i = .keygenc imm)
    (hb : badKeyBits imm.toNat = false) (h : exec i s = .next t) :
    t.work = none ∨ ∃ p g, keyGen imm.toNat Config.genAttempts s.work s.rng = (.more p, g) ∧
      t = (s.setRng g).setWork p := by
  rcases hi with rfl | rfl
  · rcases generateKey_next (install := installModKey) h with ⟨hb', -⟩ | ⟨-, p, g, hg, ht⟩ | ⟨-, p, q, g, -, h⟩
    · simp [hb] at hb'
    · exact .inr ⟨p, g, hg, ht⟩
    · exact .inl (value_work (fun _ => installKey_work) h)
  · rcases generateKey_next (install := installCrtKey) h with ⟨hb', -⟩ | ⟨-, p, g, hg, ht⟩ | ⟨-, p, q, g, -, h⟩
    · simp [hb] at hb'
    · exact .inr ⟨p, g, hg, ht⟩
    · exact .inl (value_work (fun _ => value_work fun _ => value_work fun _ => value_work fun _ =>
        installKey_work) h)

theorem padded_length {n v : Nat} (h : (mag v).length ≤ n) : (padded n v).length = n := by
  simp only [padded, zeros, List.length_append, List.length_replicate]
  omega

/-- Everything a command can do. -/
theorem exec_effect (h : exec i s = .next t) : Effect i s t := by
  cases i with
  | halt => exact Host.Outcome.next.inj h ▸ .halted rfl
  | nop => exact Host.Outcome.next.inj h ▸ .passed rfl
  | br a => exact branch_next h ▸ .branched a true rfl
  | bt a => exact branch_next h ▸ .branched a _ rfl
  | bf a => exact branch_next h ▸ .branched a _ rfl
  | beq a => exact branch_next h ▸ .branched a _ rfl
  | bne a => exact branch_next h ▸ .branched a _ rfl
  | blt a => exact branch_next h ▸ .branched a _ rfl
  | bge a => exact branch_next h ▸ .branched a _ rfl
  | csrr rd c => exact effect_writeX rfl h
  | csrw c ra =>
    cases c <;> first
      | exact Host.Outcome.next.inj h ▸ .fault .illegalCommand rfl
      | exact effect_readX (by simp [sourcesOf]) (fun v _ h => effect_csr rfl (.inl ⟨ra, rfl⟩) h) h
  | csrwi c imm =>
    cases c <;> first
      | exact Host.Outcome.next.inj h ▸ .fault .illegalCommand rfl
      | exact effect_csr rfl (.inr ⟨imm, rfl⟩) h
  | li rd imm => exact effect_writeX rfl h
  | mov rd ra => exact effect_readX (by simp [sourcesOf]) (fun _ _ => effect_writeX rfl) h
  | add rd ra rb | sub rd ra rb | mul rd ra rb | gcd rd ra rb | and rd ra rb | or rd ra rb | xor rd ra rb =>
    exact effect_readX (by simp [sourcesOf]) (fun _ _ => effect_readX (by simp [sourcesOf])
      fun _ _ => effect_writeX rfl) h
  | div rd ra rb | mod rd ra rb =>
    exact effect_readX (by simp [sourcesOf]) (fun _ _ => effect_readX (by simp [sourcesOf])
      fun _ _ => effect_check rfl fun _ => effect_writeX rfl) h
  | pow rd ra imm | shl rd ra imm | shr rd ra imm | not rd ra | setbit rd ra imm | bitlen rd ra =>
    exact effect_readX (by simp [sourcesOf]) (fun _ _ => effect_writeX rfl) h
  | cmp ra rb =>
    exact effect_readX (by simp [sourcesOf]) (fun _ _ => effect_readX (by simp [sourcesOf])
      fun _ _ h => Host.Outcome.next.inj h ▸ .compared ra rb _ _ rfl) h
  | modpow rd ra rb rc =>
    exact effect_readX (by simp [sourcesOf]) (fun _ _ => effect_readX (by simp [sourcesOf])
      fun _ _ => effect_readX (by simp [sourcesOf]) fun _ _ => effect_value rfl fun K hK =>
        modPow_error hK ▸ rfl) h
  | modinv rd ra rb =>
    exact effect_readX (by simp [sourcesOf]) (fun _ _ => effect_readX (by simp [sourcesOf])
      fun _ _ => effect_value rfl fun K hK => modInverse_error hK ▸ rfl) h
  | montmul rd ra rb rc =>
    exact effect_readX (by simp [sourcesOf]) (fun _ _ => effect_readX (by simp [sourcesOf])
      fun _ _ => effect_readX (by simp [sourcesOf]) fun _ _ => effect_check rfl fun _ =>
        effect_check rfl fun _ => effect_writeX rfl) h
  | bmu rd ra =>
    exact effect_readX (by simp [sourcesOf]) (fun _ _ => effect_check rfl fun _ => effect_writeX rfl) h
  | bred rd ra rb =>
    exact effect_readX (by simp [sourcesOf]) (fun _ _ => effect_readX (by simp [sourcesOf])
      fun _ _ => effect_check rfl fun _ => effect_check rfl fun _ => effect_writeX rfl) h
  | testbit ra imm =>
    exact effect_readX (by simp [sourcesOf]) (fun _ _ h =>
      Host.Outcome.next.inj h ▸ .tested ra imm _ s.rng (.inl ⟨rfl, rfl⟩)) h
  | enc ra =>
    refine effect_readX (by simp [sourcesOf]) (fun v hx => effect_check rfl fun _ h => ?_) h
    rcases memWrite_next h with ⟨hb, h⟩ | ⟨-, rfl⟩
    · exact Host.Outcome.next.inj h ▸ .encoded ra v rfl hx hb
    · exact .fault _ rfl
  | i2osp ra =>
    refine effect_readX (by simp [sourcesOf]) (fun v hx => effect_check rfl fun h0 =>
      effect_check rfl fun hm h => ?_) h
    have h0 : 0 ≤ v := by simpa using h0
    have hm : (mag v.toNat).length ≤ s.len.toNat := by simpa using hm
    rcases memWrite_next h with ⟨hb, h⟩ | ⟨-, rfl⟩
    · rw [padded_length hm] at hb
      exact Host.Outcome.next.inj h ▸ .stored ra v rfl hx h0 hm hb
    · exact .fault _ rfl
  | dec rd => exact effect_load rfl rfl h
  | os2ip rd => exact effect_load (f := fun bs => (beVal bs : Int)) rfl rfl h
  | ptest ra imm =>
    refine effect_readX (by simp [sourcesOf]) (fun v _ => effect_check rfl fun _ h => ?_) h
    split_ifs at h
    · exact Host.Outcome.next.inj h ▸ .tested ra imm _ s.rng (.inr rfl)
    · exact Host.Outcome.next.inj h ▸ .tested ra imm _ s.rng (.inr rfl)
    · exact Host.Outcome.next.inj h ▸ .tested ra imm _ s.rng (.inr rfl)
    · exact Host.Outcome.next.inj h ▸ .tested ra imm _ _ (.inr rfl)
  | pgen rd imm => exact effect_generatePrime (.inl rfl) h
  | pgens rd imm => exact effect_generatePrime (.inr rfl) h
  | kput j ra =>
    refine effect_readX (by simp [sourcesOf]) (fun v _ h => ?_) h
    rcases writeK_next h with ⟨hv, rfl⟩ | ⟨hv, rfl⟩
    · exact .keyPut j ra v rfl hv
    · exact .fault _ (capBits_of_not_fits hv)
  | kget rd j => exact effect_readK ⟨rd, 0, .inl rfl⟩ (fun _ _ => effect_writeX rfl) h
  | rsaep rd ra => exact effect_publicPower (R := .badParameter) (w := id) rfl (.inl rfl) rfl h
  | rsavp1 rd ra => exact effect_publicPower (R := .signature) (w := State.delay) rfl (.inr rfl) ⟨rd, ra, rfl⟩ h
  | rsadp rd ra => exact effect_rsaPriv (R := .decryption) (.inl rfl) (fun hf => ⟨hf, rd, ra, rfl⟩) h
  | rsasp1 rd ra => exact effect_rsaPriv (R := .badParameter) (.inr rfl) (fun _ => rfl) h
  | keygen imm => exact effect_keygen h
  | keygenc imm => exact effect_keygenc h

end Sys2Proof.Machine
end

