-- ==== Sys2Proof/Laws/Prime.lean ====
section
/-! SUPPORT. What the prime unit's functions do to the random source: every one of them only makes
requests, and a pass of the retry loop that returns a value is an `AcceptedPass`. -/

namespace Sys2Proof.Machine

variable {g h k : Rng}

theorem natLen_eq_size (n : Nat) : natLen n = Nat.size n :=
  le_antisymm ((natLen_le_iff _ _).2 (Nat.lt_size_self n)) (Nat.size_le.2 ((natLen_le_iff _ _).1 le_rfl))

/-! ## Reachability of the random source -/

theorem leadsTo_refl (g : Rng) : LeadsTo g g := ⟨[], rfl⟩

theorem LeadsTo.trans : LeadsTo g h → LeadsTo h k → LeadsTo g k := by
  rintro ⟨ms, rfl⟩ ⟨ns, rfl⟩
  exact ⟨ms ++ ns, List.foldl_append⟩

theorem rngFill_leadsTo (n : Nat) (g : Rng) : LeadsTo g (rngFill n g).2 := ⟨[n], rfl⟩

theorem drawBase_leadsTo (n : Nat) (g : Rng) : LeadsTo g (drawBase n g).2 := rngFill_leadsTo _ g

theorem drawCandidate_leadsTo (bits : Nat) (g : Rng) : LeadsTo g (drawCandidate bits g).2 :=
  rngFill_leadsTo _ g

theorem millerRabin_leadsTo (n r : Nat) (g : Rng) : LeadsTo g (millerRabin n r g).2 := by
  induction r generalizing g with
  | zero => exact leadsTo_refl g
  | succ r ih =>
    simp only [millerRabin]
    split
    · exact drawBase_leadsTo n g
    · exact (drawBase_leadsTo n g).trans (ih _)

theorem primePass_leadsTo (bits : Nat) (safe : Bool) (g : Rng) : LeadsTo g (primePass bits safe g).2 := by
  have hd := drawCandidate_leadsTo bits g
  have hm := hd.trans (millerRabin_leadsTo (sieve (drawCandidate bits g).1) Config.mrRounds _)
  simp only [primePass]
  split_ifs
  · exact hd
  · exact hm.trans (millerRabin_leadsTo _ _ _)
  · exact hm.trans (millerRabin_leadsTo _ _ _)
  · exact hm
  · exact hm

/-! ## The sieve's result and the accepted pass -/

theorem sieveLoop_mod_two (f c : Nat) : sieveLoop f c % 2 = c % 2 := by
  induction f generalizing c with
  | zero => rfl
  | succ f ih =>
    simp only [sieveLoop]
    split
    · rfl
    · rw [ih]; omega

/-- A coprime number within the loop's fuel is found. -/
theorem sieveLoop_coprime {f c j : Nat} (hj : j < f)
    (hc : Nat.gcd (c + 2 * j) Config.smallPrimeProduct = 1) :
    Nat.gcd (sieveLoop f c) Config.smallPrimeProduct = 1 := by
  induction f generalizing c j with
  | zero => omega
  | succ f ih =>
    simp only [sieveLoop]
    split
    · assumption
    · cases j with
      | zero => exact absurd hc ‹_›
      | succ j => exact ih (j := j) (by omega) (by rwa [show c + 2 + 2 * j = c + 2 * (j + 1) by ring])

/-- Among `SP` consecutive numbers of one parity one is 1 modulo `SP`. -/
theorem exists_coprime (c : Nat) : ∃ j < Config.smallPrimeProduct,
    Nat.gcd (c + 2 * j) Config.smallPrimeProduct = 1 := by
  have hS : Config.smallPrimeProduct = 2 * 2424922 + 1 := rfl
  obtain ⟨j, hj⟩ : ∃ j, j = (2424923 * (1 + c * (Config.smallPrimeProduct - 1))) % Config.smallPrimeProduct :=
    ⟨_, rfl⟩
  refine ⟨j, by rw [hj]; exact Nat.mod_lt _ (by decide), ?_⟩
  have h1 : (c + 2 * j) % Config.smallPrimeProduct = 1 := by
    rw [hj, hS]
    omega
  rw [Nat.gcd_comm, Nat.gcd_rec, h1, Nat.gcd_one_left]

theorem sieve_coprime (c : Nat) : Nat.gcd (sieve c) 4849845 = 1 :=
  (exists_coprime c).elim fun _ h => sieveLoop_coprime h.1 h.2

theorem shapeCandidate_odd (bits : Nat) (bs : List Byte) : shapeCandidate bits bs % 2 = 1 := by
  have odd : ∀ v : Nat, (if v % 2 = 0 then v + 1 else v) % 2 = 1 := fun v => by split <;> omega
  exact odd _

theorem sieve_drawCandidate_odd (bits : Nat) (g : Rng) : sieve (drawCandidate bits g).1 % 2 = 1 :=
  (sieveLoop_mod_two _ _).trans (shapeCandidate_odd bits _)

/-- A pass that returns a value has accepted it. -/
theorem primePass_accepted {bits p : Nat} {safe : Bool} (hp : primePass bits safe g = (some p, h)) :
    AcceptedPass bits safe p g h := by
  simp only [primePass] at hp
  split at hp
  · cases hp
  · next hlen =>
    have base : Nat.size (sieve (drawCandidate bits g).1) = bits ∧
        sieve (drawCandidate bits g).1 % 2 = 1 ∧ Nat.gcd (sieve (drawCandidate bits g).1) 4849845 = 1 :=
      ⟨(natLen_eq_size _).symm.trans (not_not.1 hlen), sieve_drawCandidate_odd bits g, sieve_coprime _⟩
    split_ifs at hp with hm hs hm2 <;> cases hp
    · exact ⟨rfl, base.1, base.2.1, base.2.2, _, Prod.ext hm rfl, fun hn => by simp [hn] at hs,
        fun _ => Prod.ext hm2 rfl⟩
    · exact ⟨rfl, base.1, base.2.1, base.2.2, _, Prod.ext hm rfl, fun _ => rfl, fun h => absurd h hs⟩

/-- One pass of `KeyGen`'s loop for its first prime. -/
theorem primePass_step {bits : Nat} {o : Option Nat} (hp : primePass bits false g = (o, h)) :
    LeadsTo g h ∧ ∀ p, o = some p → AcceptedPass bits false p g h := by
  refine ⟨?_, fun p ho => primePass_accepted (ho ▸ hp)⟩
  have := primePass_leadsTo bits false g
  rwa [hp] at this

end Sys2Proof.Machine
end

