-- ==== Sys2Proof/Tests/Slice0.lean ====
section
/-! SUPPORT. Tests: ill-formed terms the checks refuse, words written out from the encodings of
30_encoding.md, single steps on the worked examples of the spec's rules, and for each obligation with
hypotheses a concrete state that meets them. -/

namespace Sys2Proof.Tests

-- the theorems are checked one after another: a hundred checks at once take more memory than there is
set_option Elab.async false

open Sys2Proof Sys2Proof.Machine

/-! ## Helpers -/

/-- A running engine, all registers unset, `CAP_BITS = ∞`. -/
def run : State := { State.reset with status := .running }

/-- With registers `b1`, `b2`, `b3`. -/
def regs (s : State) (a b c : Int) : State := ((s.setX 1 a).setX 2 b).setX 3 c

/-- With finite capacity. -/
def capped (s : State) (c : Nat) : State := { s with par := ⟨some c, s.par.cmSize, s.par.omSize⟩ }

/-- With scripted random answers. -/
def drawing (s : State) (bs : List Byte) : State := { s with rng := ⟨bs, 0, 0⟩ }

/-- With the string at `PTR = a` and `LEN` its length. -/
def holding (s : State) (a : Nat) (bs : List Byte) : State :=
  ((s.setOM a bs).setPtr (BitVec.ofNat 16 a)).setLen (BitVec.ofNat 16 bs.length)

/-- `n` zero bytes. -/
def zs (n : Nat) : List Byte := List.replicate n 0

/-- The state an answer gives. -/
def after (a : Answer) : Option State :=
  match a with
  | .next t => some t
  | .fault _ => none
  | .refused _ => none

/-- `x[r]` after. -/
def xr (a : Answer) (r : XReg) : Option Int := (after a).bind fun t => t.x.get r

/-- `EKIND` after. -/
def kind (a : Answer) : Option FaultKind := (after a).bind fun t => t.ekind

/-- `FLAGS` after. -/
def fl (a : Answer) : Option (BitVec 3) := (after a).map fun t => t.flags

/-- `n` bytes from address `b` after. -/
def bytes (a : Answer) (b n : Nat) : Option (List Byte) := (after a).map fun t => t.octets b n

/-- The key registers after. -/
def keys (a : Answer) : Option (List (Option Int)) := (after a).map fun t => t.k.toList

/-- The command a word decodes to. -/
def dec (w : Word) : Option Instr := (decode w).toOption

/-! ## Ill-formed terms -/

theorem test_wf_refuses_csrw_of_read_only : ∀ c ∈ [Csr.status, .ekind, .epc, .capbits, .omsize, .cmsize],
    ∀ ra : XReg, (Instr.csrw c ra).wf = false := by decide

theorem test_wf_refuses_csrwi_of_read_only : ∀ c ∈ [Csr.status, .ekind, .epc, .capbits, .omsize, .cmsize],
    (Instr.csrwi c 0).wf = false := by decide

theorem test_wf_accepts_writable : ∀ c ∈ [Csr.flags, .ptr, .len, .kform, .ie],
    (Instr.csrw c 0).wf = true ∧ (Instr.csrwi c 0).wf = true := by decide

/-- `CSRWI STATUS, 0` (46_control.md R222), `CSRR` of number 11, `KGET` of k9, `B` of condition 7, an unused
field, an unassigned opcode, all zeros, all ones. -/
theorem test_decode_refuses : [0x06000000, 0x0410000B, 0x61100009, 0x03700000, 0x12312001, 0x07000000,
    0x00000000, 0xFFFFFFFF].map dec = List.replicate 8 none := by decide

/-! ## Words written out from the encodings -/

theorem test_decode_control : [0x01000000, 0x02000000, 0x03000000, 0x03100005, 0x03200005, 0x03300009,
    0x03400002, 0x03500002, 0x03600007, 0x04100003, 0x05050003, 0x06200010].map dec =
  [some .halt, some .nop, some (.br 0), some (.bt 5), some (.bf 5), some (.beq 9), some (.bne 2),
    some (.blt 2), some (.bge 7), some (.csrr 1 .len), some (.csrw .len 5), some (.csrwi .ptr 16)] := by
  decide

theorem test_decode_arith : [0x10100007, 0x11020000, 0x12312000, 0x13312000, 0x14312000, 0x15312000,
    0x16312000, 0x17312000, 0x1831000D, 0x19012000].map dec =
  [some (.li 1 7), some (.mov 0 2), some (.add 3 1 2), some (.sub 3 1 2), some (.mul 3 1 2),
    some (.div 3 1 2), some (.mod 3 1 2), some (.gcd 3 1 2), some (.pow 3 1 13), some (.cmp 1 2)] := by
  decide

theorem test_decode_modular : [0x20412300, 0x21312000, 0x22412300, 0x23210000, 0x24312000].map dec =
  [some (.modpow 4 1 2 3), some (.modinv 3 1 2), some (.montmul 4 1 2 3), some (.bmu 2 1),
    some (.bred 3 1 2)] := by decide

theorem test_decode_bits : [0x30210010, 0x31210001, 0x32312000, 0x33312000, 0x34312000, 0x35210000,
    0x36010001, 0x37210010, 0x38210000].map dec =
  [some (.shl 2 1 16), some (.shr 2 1 1), some (.and 3 1 2), some (.or 3 1 2), some (.xor 3 1 2),
    some (.not 2 1), some (.testbit 1 1), some (.setbit 2 1 16), some (.bitlen 2 1)] := by decide

theorem test_decode_octets_and_primes : [0x40010000, 0x41200000, 0x42040000, 0x43400000, 0x50010040,
    0x51200008, 0x52200005].map dec =
  [some (.enc 1), some (.dec 2), some (.i2osp 4), some (.os2ip 4), some (.ptest 1 64), some (.pgen 2 8),
    some (.pgens 2 5)] := by decide

theorem test_decode_rsa : [0x60020004, 0x61100000, 0x62210000, 0x63210000, 0x64210000, 0x65210000,
    0x6600000A, 0x6700000A].map dec =
  [some (.kput 4 2), some (.kget 1 0), some (.rsaep 2 1), some (.rsavp1 2 1), some (.rsadp 2 1),
    some (.rsasp1 2 1), some (.keygen 10), some (.keygenc 10)] := by decide

/-- The words the host numbers go to the decoder as they stand. -/
theorem test_decodeTableWord : decodeTableWord 32 0x12312000 = some (.add 3 1 2) ∧
    decodeTableWord 32 0 = none := by decide

theorem test_withFetchWord : after (step (State.reset.withFetchWord 32 0x10100007)) =
    after (exec (.li 1 7) (State.reset.withFetchWord 32 0x10100007)) ∧
    xr (step (State.reset.withFetchWord 32 0x10100007)) 1 = some 7 := by decide +kernel

/-! ## The assembler (30_encoding.md R81, R82) -/

theorem test_asm_labels_and_comments :
    Asm.assemble 0 "loop: li B1, 0x7 ; seven\n br loop\nend:\n b 3, end\n halt" =
      some [0x10100007, 0x03000000, 0x03300002, 0x01000000] := by decide +kernel

theorem test_asm_pseudo : Asm.assemble 0 "SETPTR 16\nSETLEN 4\nSETKFORM 2\nCLRFLAGS\nKGET b1, pub_n" =
    some [0x06200010, 0x06300004, 0x06600002, 0x06100000, 0x61100000] := by decide +kernel

theorem test_asm_refuses : Asm.assemble 0 "LI b16, 7" = none ∧ Asm.assemble 0 "LI b1, 65536" = none ∧
    Asm.assemble 0 "CSRWI STATUS, 0" = none := by decide +kernel

theorem test_asm_print : Asm.print (.modpow 4 1 2 3) = "MODPOW b4, b1, b2, b3" ∧
    Asm.print (.kput 4 2) = "KPUT k4, b2" := by decide +kernel

/-! ## Control commands: the examples of 46_control.md -/

theorem test_halt : (after (exec .halt { run with pc := 9 })).map (fun t => (t.status, t.pc)) =
    some (.done, 9) := by decide

theorem test_nop : (after (exec .nop { run with pc := 9 })).map (fun t => t.pc) = some 10 := by decide

theorem test_branches_taken : [Instr.br 5, .bt 5, .beq 5, .blt 5, .bf 5, .bne 5, .bge 5].map
    (fun i => (after (exec i { run with flags := 7 })).map (fun t => t.pc)) =
    [some 5, some 5, some 5, some 5, some 1, some 1, some 1] := by decide

theorem test_branches_test_their_own_flag : [Instr.bt 5, .beq 5, .blt 5].map
    (fun i => (after (exec i { run with flags := 2 })).map (fun t => t.pc)) =
    [some 1, some 5, some 1] := by decide

theorem test_csrr_len : xr (exec (.csrr 1 .len) { run with len := 2 }) 1 = some 2 := by decide

theorem test_csrr_capacity : kind (exec (.csrr 1 .ptr) (capped { run with ptr := 300 } 8)) =
    some .capacityFault := by decide

theorem test_csrw_len : (after (exec (.csrw .len 1) (regs run 2 0 0))).map (fun t => t.len) = some 2 := by
  decide

theorem test_csrw_range : kind (exec (.csrw .len 1) (regs run 65536 0 0)) = some .badParameter ∧
    kind (exec (.csrw .len 1) (regs run (-1) 0 0)) = some .badParameter := by decide

theorem test_csrwi : fl (exec (.csrwi .flags 6) run) = some 6 ∧
    kind (exec (.csrwi .kform 3) run) = some .badParameter := by decide

/-! ## Arithmetic: the examples of 40_arith.md -/

theorem test_li : xr (exec (.li 1 7) run) 1 = some 7 := by decide
theorem test_mov : xr (exec (.mov 0 2) (regs run 0 (-5) 0)) 0 = some (-5) := by decide
theorem test_add : xr (exec (.add 3 1 2) (regs run 255 1 0)) 3 = some 256 := by decide

/-- The sum of two values of full capacity and equal sign faults. -/
theorem test_add_capacity : kind (exec (.add 3 1 2) (capped (regs run 255 1 0) 8)) =
    some .capacityFault := by decide
theorem test_sub : xr (exec (.sub 3 1 2) (regs run 3 10 0)) 3 = some (-7) := by decide
theorem test_mul : xr (exec (.mul 3 1 2) (regs run (-12) 12 0)) 3 = some (-144) := by decide

/-- The sign table of R101. -/
theorem test_div : xr (exec (.div 3 1 2) (regs run (-7) 2 0)) 3 = some (-3) ∧
    xr (exec (.div 3 1 2) (regs run 7 (-2) 0)) 3 = some (-3) ∧
    xr (exec (.div 3 1 2) (regs run (-7) (-2) 0)) 3 = some 3 ∧
    kind (exec (.div 3 1 2) (regs run 5 0 0)) = some .badParameter := by decide
theorem test_mod : xr (exec (.mod 3 1 2) (regs run (-7) 2 0)) 3 = some 1 ∧
    kind (exec (.mod 3 1 2) (regs run 7 (-2) 0)) = some .badParameter ∧
    kind (exec (.mod 3 1 2) (regs run 0 0 0)) = some .badParameter := by decide
theorem test_gcd : xr (exec (.gcd 3 1 2) (regs run 65537 3120 0)) 3 = some 1 ∧
    xr (exec (.gcd 3 1 2) (regs run (-12) 18 0)) 3 = some 6 := by decide +kernel
theorem test_pow : xr (exec (.pow 3 1 13) (regs run 7 0 0)) 3 = some 96889010407 ∧
    xr (exec (.pow 3 1 3) (regs run (-2) 0 0)) 3 = some (-8) ∧
    xr (exec (.pow 3 1 0) (regs run 0 0 0)) 3 = some 1 := by decide
theorem test_cmp : fl (exec (.cmp 1 2) (regs { run with flags := 1 } (-1) 0 0)) = some 5 ∧
    fl (exec (.cmp 1 2) (regs run 0 0 0)) = some 2 := by decide

/-! ## Modular commands: the examples of 41_modular.md -/

theorem test_modpow : xr (exec (.modpow 4 1 2 3) (regs run 7 13 11)) 4 = some 2 ∧
    xr (exec (.modpow 4 1 2 3) (regs run (-3) 3 7)) 4 = some 1 := by decide +kernel
theorem test_modpow_negative_exponent : xr (exec (.modpow 4 1 2 3) (regs run 3 (-1) 7)) 4 = some 5 ∧
    kind (exec (.modpow 4 1 2 3) (regs run 0 (-1) 7)) = some .badParameter ∧
    xr (exec (.modpow 4 1 2 3) (regs run 0 (-1) 1)) 4 = some 0 := by decide +kernel
theorem test_modinv : xr (exec (.modinv 3 1 2) (regs run 17 3120 0)) 3 = some 2753 ∧
    xr (exec (.modinv 3 1 2) (regs run (-3) 7 0)) 3 = some 2 ∧
    kind (exec (.modinv 3 1 2) (regs run 4 6 0)) = some .badParameter := by decide +kernel
theorem test_montmul : xr (exec (.montmul 4 1 2 3) (regs run 5 7 97)) 4 = some 95 ∧
    kind (exec (.montmul 4 1 2 3) (regs run 97 7 97)) = some .badParameter := by decide +kernel
theorem test_bmu : xr (exec (.bmu 2 1) (regs run 97 0 0)) 2 = some 168 ∧
    xr (exec (.bmu 2 1) (regs run 1 0 0)) 2 = some 4 := by decide +kernel
theorem test_bred : xr (exec (.bred 3 1 2) (regs run 9408 97 0)) 3 = some 96 ∧
    xr (exec (.bred 3 1 2) (regs run 3 1 0)) 3 = some 0 ∧
    kind (exec (.bred 3 1 2) (regs run 4 1 0)) = some .badParameter := by decide +kernel

/-! ## Bit commands: the examples of 42_bits.md -/

theorem test_shl : xr (exec (.shl 2 1 16) (regs run 1 0 0)) 2 = some 65536 ∧
    xr (exec (.shl 2 1 2) (regs run (-3) 0 0)) 2 = some (-12) := by decide
theorem test_shr : xr (exec (.shr 2 1 1) (regs run (-5) 0 0)) 2 = some (-3) ∧
    xr (exec (.shr 2 1 1) (regs run 5 0 0)) 2 = some 2 := by decide
theorem test_and : xr (exec (.and 3 1 2) (regs run 12 10 0)) 3 = some 8 ∧
    xr (exec (.and 3 1 2) (regs run (-4) 7 0)) 3 = some 4 ∧
    xr (exec (.and 3 1 2) (regs run (-5) (-3) 0)) 3 = some (-7) := by decide
theorem test_or : xr (exec (.or 3 1 2) (regs run 12 10 0)) 3 = some 14 ∧
    xr (exec (.or 3 1 2) (regs run (-4) 1 0)) 3 = some (-3) := by decide
theorem test_xor : xr (exec (.xor 3 1 2) (regs run 12 10 0)) 3 = some 6 ∧
    xr (exec (.xor 3 1 2) (regs run (-1) 5 0)) 3 = some (-6) := by decide
theorem test_not : xr (exec (.not 2 1) (regs run 5 0 0)) 2 = some (-6) ∧
    kind (exec (.not 2 1) (capped (regs run 255 0 0) 8)) = some .capacityFault := by decide
theorem test_testbit : fl (exec (.testbit 1 1) (regs { run with flags := 7 } 13 0 0)) = some 6 ∧
    fl (exec (.testbit 1 2) (regs run 13 0 0)) = some 1 ∧
    fl (exec (.testbit 1 200) (regs run (-1) 0 0)) = some 1 := by decide
theorem test_setbit : xr (exec (.setbit 2 1 16) (regs run 0 0 0)) 2 = some 65536 ∧
    xr (exec (.setbit 2 1 0) (regs run (-8) 0 0)) 2 = some (-7) ∧
    xr (exec (.setbit 2 1 9) (regs run (-1) 0 0)) 2 = some (-1) := by decide
theorem test_bitlen : xr (exec (.bitlen 2 1) (regs run 3233 0 0)) 2 = some 12 ∧
    xr (exec (.bitlen 2 1) (regs run (-256) 0 0)) 2 = some 8 ∧
    xr (exec (.bitlen 2 1) (regs run (-257) 0 0)) 2 = some 9 := by decide +kernel

/-! ## Octet commands: the examples of 43_octets.md -/

theorem test_enc : bytes (exec (.enc 1) (regs { run with ptr := 16 } 3233 0 0)) 16 2 = some [0x0C, 0xA1] ∧
    bytes (exec (.enc 1) (regs run 255 0 0)) 0 2 = some [0x00, 0xFF] := by decide +kernel
theorem test_enc_sets_len :
    (after (exec (.enc 1) (regs run 0 0 0))).map (fun t => (t.len, t.octets 0 1)) = some (1, [0x00]) ∧
    kind (exec (.enc 1) (regs { run with ptr := 4095 } 128 0 0)) = some .octetAccess := by decide +kernel
theorem test_dec : xr (exec (.dec 2) (holding run 0 [0x00, 0xFF])) 2 = some 255 ∧
    xr (exec (.dec 2) (holding run 0 [0xFF])) 2 = some (-1) ∧
    xr (exec (.dec 2) (holding run 0 [0x80, 0x00])) 2 = some (-32768) := by decide +kernel
theorem test_i2osp : bytes (exec (.i2osp 1) (regs { run with len := 4 } 2 0 0)) 0 4 =
      some [0x00, 0x00, 0x00, 0x02] ∧
    bytes (exec (.i2osp 1) (regs { run with len := 1 } 255 0 0)) 0 1 = some [0xFF] := by decide +kernel

/-- The value check comes before the bounds check (60_exceptions.md R241). -/
theorem test_i2osp_checks :
    kind (exec (.i2osp 1) (regs { run with len := 2 } 65536 0 0)) = some .badParameter ∧
    kind (exec (.i2osp 1) (regs { run with len := 4096, ptr := 1 } (-1) 0 0)) = some .badParameter ∧
    kind (exec (.i2osp 1) (regs { run with len := 4096, ptr := 1 } 1 0 0)) = some .octetAccess := by
  decide +kernel
theorem test_os2ip : xr (exec (.os2ip 4) (holding run 0 [0x00, 0x00, 0x0C, 0xA1])) 4 = some 3233 ∧
    xr (exec (.os2ip 4) run) 4 = some 0 := by decide +kernel

/-! ## Prime commands: the examples of 44_prime.md -/

theorem test_ptest : fl (exec (.ptest 1 1) (regs (drawing run [0x05]) 25 0 0)) = some 1 ∧
    fl (exec (.ptest 1 1) (regs (drawing run [0x00]) 25 0 0)) = some 0 ∧
    kind (exec (.ptest 1 0) (regs run 25 0 0)) = some .badParameter := by decide +kernel
theorem test_ptest_requests :
    (after (exec (.ptest 1 2) (regs (drawing run [0x05, 0x00]) 25 0 0))).map
      (fun t => (t.flags, t.rng.calls)) = some (0, 2) := by decide +kernel
theorem test_pgen : (after (exec (.pgen 2 8) (drawing run (0xFD :: 0xB5 :: zs 64)))).map
    (fun t => (t.x.get 2, t.rng.calls)) = some (some 181, 66) := by decide +kernel

/-- A composite may be returned: 529 with the strong liar 28 in every round (44_prime.md R175). -/
theorem test_pgen_strong_liar :
    xr (exec (.pgen 2 10) (drawing run (0x02 :: 0x11 :: (List.replicate 64 [0x00, 0x1A]).flatten))) 2 =
      some 529 := by decide +kernel
theorem test_pgens : (after (exec (.pgens 2 5)
    (drawing run (0x1F :: zs 64 ++ 0x00 :: 0x17 :: zs 128)))).map (fun t => (t.x.get 2, t.rng.calls)) =
      some (some 23, 195) := by decide +kernel

/-! ## Key and RSA commands: the examples of 45_rsa.md -/

/-- The public key of the examples. -/
def pub (s : State) : State := (s.setK 0 3233).setK 1 17

/-- The modulus-form private key of the examples. -/
def priv (s : State) : State := ((s.setK 2 3233).setK 3 2753).setKform .modKey

/-- The CRT-form private key of the examples. -/
def crt (s : State) : State :=
  ((((((s.setK 2 3233).setK 4 61).setK 5 53).setK 6 53).setK 7 49).setK 8 38).setKform .crtKey

theorem test_kput : (after (exec (.kput 4 2) (regs run 0 61 0))).map (fun t => t.k.get 4) =
    some (some 61) := by decide
theorem test_kget : xr (exec (.kget 1 0) (pub run)) 1 = some 3233 ∧
    kind (exec (.kget 1 4) (pub run)) = some .unsetRegister := by decide
theorem test_rsaep : xr (exec (.rsaep 2 1) (regs (pub run) 65 0 0)) 2 = some 2790 ∧
    kind (exec (.rsaep 2 1) (regs (pub run) 3233 0 0)) = some .badParameter := by decide +kernel
theorem test_rsavp1 : xr (exec (.rsavp1 2 1) (regs (pub run) 588 0 0)) 2 = some 65 ∧
    kind (exec (.rsavp1 2 1) (regs (pub run) (-1) 0 0)) = some .signature := by decide +kernel
theorem test_rsadp : xr (exec (.rsadp 2 1) (regs (priv run) 2790 0 0)) 2 = some 65 ∧
    xr (exec (.rsadp 2 1) (regs (crt run) 2790 0 0)) 2 = some 65 := by decide +kernel
theorem test_rsadp_kinds : kind (exec (.rsadp 2 1) (regs (crt run) 3233 0 0)) = some .decryption ∧
    kind (exec (.rsadp 2 1) (regs (priv run) 3233 0 0)) = some .badParameter ∧
    kind (exec (.rsadp 2 1) (regs run 1 0 0)) = some .badParameter ∧
    kind (exec (.rsadp 2 1) (run.setKform .crtKey)) = some .unsetRegister := by decide +kernel
theorem test_rsasp1 : xr (exec (.rsasp1 2 1) (regs (priv run) 65 0 0)) 2 = some 588 ∧
    xr (exec (.rsasp1 2 1) (regs (crt run) 65 0 0)) 2 = some 588 ∧
    kind (exec (.rsasp1 2 1) (regs (crt run) 3233 0 0)) = some .badParameter := by decide +kernel

/-- The random answers of the examples of R200 and R201. -/
def pair : State := drawing run (0x17 :: zs 64 ++ 0x1D :: zs 64)

/-- The answers of R202 (a), `p = q = 23`. -/
def twin : State := drawing run (0x17 :: zs 64 ++ 0x17 :: zs 64)

theorem test_keygen : keys (exec (.keygen 10) pair) =
    some [some 667, some 65537, some 667, some 593, none, none, none, none, none] ∧
    kind (exec (.keygen 11) run) = some .badParameter := by decide +kernel
theorem test_keygenc : keys (exec (.keygenc 10) pair) =
    some [some 667, some 65537, some 667, some 593, some 23, some 29, some 21, some 5, some 4] ∧
    kind (exec (.keygenc 10) twin) = some .badParameter := by decide +kernel

/-- 45_rsa.md R198 as written, with `dP = 0` allowed, is not a law of the rules: `p = 3`, `q = 5`, `d = 2`,
`dP = 0`, `dQ = 2`, `qInv = 2`, `c = 0` (NOTES.md). -/
theorem test_r198_fails_when_dP_is_zero :
    (rsaPrivCrt .decryption 15 3 5 0 2 2 0).toOption ≠ (rsaPrivMod 15 2 0).toOption := by decide +kernel

/-! ## The step and the host -/

theorem test_step_fetch_fault : kind (step { run with pc := 1024 }) = some .fetchFault := by decide

theorem test_step_illegal : kind (step (run.setCM 0 0)) = some .illegalCommand := by decide

theorem test_step_idle_waits : after (step State.reset) = some State.reset := by decide

/-- From reset: the host writes `LI b1, 7`, starts, and the engine runs it (log 9). -/
theorem test_run_from_reset : (after (step { State.reset with
    host := [.writeCM 0 0x10100007, .start 0] })).bind (fun t => (after (step t)).bind fun u =>
      xr (step u) 1) = some 7 := by decide +kernel

theorem test_host_write_dropped_while_running :
    after (step { run with host := [.writeOM 3 0xAA] }) = some run := by decide

theorem test_irq : State.irq { run with status := .done, ie := 1 } = true ∧
    State.irq { run with status := .error, ie := 1 } = false := by decide

/-! ## Witnesses: for each obligation with hypotheses, a concrete state and operands that meet them -/

theorem fits_unbounded {s : State} (h : s.par.capBits = none) (v : Int) : Fits s v := by
  intro c hc
  rw [h] at hc
  cases hc

theorem registersFit_unbounded {s : State} (h : s.par.capBits = none) : RegistersFit s :=
  ⟨fun _ v _ => fits_unbounded h v, fun _ v _ => fits_unbounded h v⟩

/-- Both clauses of `EndsWriting`, at the boundary: 255 fits 8 bits and 256 does not. -/
theorem witness_EndsWriting : Fits (capped run 8) 255 ∧ ¬ Fits (capped run 8) 256 := by
  rw [← fits_iff, ← fits_iff]
  decide

theorem witness_EveryCommandDecodesBackFromItsWord : (Instr.csrwi .ie 3).wf = true := by decide

theorem witness_EveryLegalWordIsItsCommandsOnlyWord : decode 0x06700003 = .ok (.csrwi .ie 3) := by rfl

theorem witness_OpcodeTableReadsAsTheDecoder :
    (∀ r ∈ opcodeTable, r.hits 0x06000000 = false) ∧
    (∃ r ∈ opcodeTable, r.hits 0x0610FFFF = true) := by decide

/-- A running engine with one command at the last cell of command memory. -/
def atLast (w : Word) : State := { run.setCM 1023 w with pc := 1023 }

theorem witness_StepRunsTheDecodedCommand : (atLast 0x02000000).status = .running ∧
    (atLast 0x02000000).pc.toNat < (atLast 0x02000000).par.cmSize ∧
    decode ((atLast 0x02000000).cmRead (atLast 0x02000000).pc.toNat) = .ok .nop ∧
    (atLast 0x02000000).host = [] ∧ State.host { atLast 0 with host := [.wait] } = .wait :: [] :=
  ⟨rfl, by decide, rfl, rfl, rfl⟩

theorem witness_FetchAndDecodeFaultsAreTaken :
    State.par { run with pc := 1024 } = Params.default ∧ 1024 ≤ (1024 : BitVec 16).toNat ∧
    run.status = .running ∧ run.host = [] ∧ (atLast 0).pc.toNat < (atLast 0).par.cmSize ∧
    decode ((atLast 0).cmRead (atLast 0).pc.toNat) = .error .unassignedOpcode :=
  ⟨rfl, by decide, rfl, rfl, by decide, rfl⟩

theorem witness_HostMoveIsTheNextStep : State.host { run with host := [.reset] } = .reset :: [] ∧
    HostMove.reset ≠ .wait ∧ run.par.cmSize ≤ (1024 : BitVec 16).toNat ∧
    run.par.omSize ≤ (4096 : BitVec 16).toNat := by decide

theorem witness_HostStartAndHostClear : State.reset.status = .idle ∧ run.status ≠ .idle ∧
    (State.status { run with status := .done } = .done) ∧
    (State.status { run with status := .error } = .error) := by decide

theorem witness_HostMemoryOperations : (1023 : BitVec 16).toNat < run.par.cmSize ∧
    (4095 : BitVec 16).toNat < run.par.omSize ∧ run.status = .running ∧
    State.reset.status ≠ .running := by decide

/-- A state in the middle of a run: registers, a fault record clear, bytes and cells written. -/
def busy : State := holding (regs (atLast 0x02000000) 1 2 3) 7 [0x01, 0x02]

theorem witness_EveryStepKeepsTheInvariant : Inv busy ∧ ∃ t, step busy = .next t ∧ t ≠ busy := by
  refine ⟨⟨by decide, registersFit_unbounded rfl, ⟨by decide, by decide⟩, ?_⟩, ?_⟩
  · exact fun _ h => nomatch h
  · exact ⟨_, rfl, by decide⟩

/-- `KEYGEN 10` on the answers of 45_rsa.md R200, between its two primes: the first is accepted, the second
not yet drawn. -/
def halfway : State := { (atLast 0x6600000A) with rng := ⟨[], 65, 65⟩, work := some 23 }

theorem accepted_23 : AcceptedPass 5 false 23 ⟨0x17 :: zs 64, 0, 0⟩ ⟨[], 65, 65⟩ :=
  ⟨by decide +kernel, by decide +kernel, by decide, by decide, ⟨[], 65, 65⟩, by decide +kernel,
    fun _ => rfl, nofun⟩

/-- The invariant with a prime held in the middle of a key generation. -/
theorem witness_WorkOk : Inv halfway ∧ halfway.work = some 23 := by
  refine ⟨⟨by decide, registersFit_unbounded rfl, ⟨by decide, by decide⟩, ?_⟩, rfl⟩
  rintro _ ⟨⟩
  exact ⟨rfl, 0x6600000A, 10, rfl, .inl rfl, rfl, _, _, accepted_23, [], rfl⟩

theorem witness_PointerAfterACommand : busy.par.wf = true ∧ busy.status = .running ∧
    busy.pc.toNat < busy.par.cmSize ∧
    (∃ t, exec (.mod 1 1 5) busy = .next t ∧ t.status = .error) ∧
    (branchOutcome busy (.bf 5) = some (5, true)) ∧ (branchOutcome busy (.bt 5) = some (5, false)) ∧
    (∃ t, exec .nop busy = .next t ∧ t.status ≠ .error) :=
  ⟨by decide, by decide, by decide, ⟨_, rfl, by decide⟩, by decide, by decide, ⟨_, rfl, by decide⟩⟩

theorem witness_StatusTransitions :
    (∃ t, step { State.reset with host := [.start 3] } = .next t ∧ t.status = .running) ∧
    (∃ t, step (atLast 0x01000000) = .next t ∧ t.status = .done) ∧
    (∃ t, step (atLast 0) = .next t ∧ t.status = .error) ∧
    (∃ t, step { run with status := .done, host := [.clear] } = .next t ∧ t.status = .idle) ∧
    (∃ t, step { run with host := [.reset] } = .next t ∧ t.status = .idle) ∧
    State.reset.status ≠ .running ∧ State.reset.host = [] :=
  ⟨⟨_, rfl, by decide⟩, ⟨_, rfl, by decide⟩, ⟨_, rfl, by decide⟩, ⟨_, rfl, by decide⟩,
    ⟨_, rfl, by decide⟩, by decide, by decide⟩

theorem witness_FaultsArePrecise : busy.status = .running ∧
    (∃ t, exec (.div 1 2 4) busy = .next t ∧ t.status = .error) ∧ isGenerator (.div 1 2 4) = false :=
  ⟨rfl, ⟨_, rfl, by decide⟩, rfl⟩

theorem witness_FaultKindsByCommand : run.status = .running ∧
    kind (exec (.ptest 1 0) (regs run 25 0 0)) = some .badParameter ∧
    kind (exec (.rsadp 2 1) (regs (crt run) 3233 0 0)) = some .decryption ∧
    kind (exec (.rsavp1 2 1) (regs (pub run) 3233 0 0)) = some .signature ∧
    kind (exec (.csrw .epc 1) run) = some .illegalCommand ∧
    kind (exec (.shl 2 1 8) (capped (regs run 1 0 0) 8)) = some .capacityFault ∧
    kind (exec (.dec 2) { run with ptr := 4095, len := 2 }) = some .octetAccess ∧
    kind (exec (.rsadp 2 1) (regs (run.setKform .crtKey) 1 0 0)) = some .unsetRegister := by
  decide +kernel

theorem witness_UnsetSourcesFault : (Instr.modpow 4 1 2 5).wf = true ∧
    ∃ r ∈ sourcesOf (.modpow 4 1 2 5), (regs run 1 2 3).x.get r = none := by decide

theorem witness_CommandMemoryIsTheHosts :
    (∃ t, exec (.enc 1) (regs run 5 0 0) = .next t) ∧
    (∃ t, step { (State.reset.setCM 3 1) with host := [.writeCM 3 2] } = .next t ∧
      t.cmRead 3 ≠ (State.reset.setCM 3 1).cmRead 3) := ⟨⟨_, rfl⟩, ⟨_, rfl, by decide⟩⟩

theorem witness_FlagsHaveTheirWriters :
    (∃ t, exec (.cmp 1 2) busy = .next t ∧ t.flags ≠ busy.flags) ∧
    (∃ t, exec (.testbit 1 0) busy = .next t ∧ t.flags ≠ busy.flags) ∧
    (∃ t, exec (.csrwi .flags 7) busy = .next t ∧ t.flags ≠ busy.flags) :=
  ⟨⟨_, rfl, by decide⟩, ⟨_, rfl, by decide⟩, ⟨_, rfl, by decide⟩⟩

theorem witness_RegistersHaveTheirWriters :
    (∃ t, exec (.add 9 1 2) busy = .next t ∧ t.x.get 9 ≠ busy.x.get 9 ∧ t.x.get 1 ≠ none) ∧
    (∃ t, exec (.kput 8 1) busy = .next t ∧ t.k.get 8 ≠ busy.k.get 8) ∧
    keys (exec (.keygen 10) (crt pair)) =
      some [some 667, some 65537, some 667, some 593, none, none, none, none, none] ∧
    (crt pair).k.get 4 ≠ none :=
  ⟨⟨_, rfl, by decide, by decide⟩, ⟨_, rfl, by decide⟩, by decide +kernel, by decide⟩

theorem witness_ControlRegistersHaveTheirWriters :
    (∃ t, exec (.csrwi .ptr 16) run = .next t ∧ t.ptr ≠ run.ptr) ∧
    (∃ t, exec (.enc 1) (regs run 5 0 0) = .next t ∧ t.len ≠ run.len) ∧
    (∃ t, exec (.csrwi .kform 2) run = .next t ∧ t.kform ≠ run.kform) ∧
    (∃ t, exec (.csrwi .ie 3) run = .next t ∧ t.ie ≠ run.ie) ∧
    (∃ t, exec .halt run = .next t ∧ t.status ≠ run.status) ∧
    (∃ t, exec (.mov 1 2) run = .next t ∧ t.ekind ≠ run.ekind) :=
  ⟨⟨_, rfl, by decide⟩, ⟨_, rfl, by decide⟩, ⟨_, rfl, by decide⟩, ⟨_, rfl, by decide⟩,
    ⟨_, rfl, by decide⟩, ⟨_, rfl, by decide⟩⟩

theorem witness_OctetMemoryHasItsWriters :
    (∃ t, exec (.enc 1) (regs busy 5 0 0) = .next t ∧ t.omRead 7 ≠ (regs busy 5 0 0).omRead 7) ∧
    (∃ t, exec (.i2osp 1) (regs busy 5 0 0) = .next t ∧ t.omRead 8 ≠ (regs busy 5 0 0).omRead 8) :=
  ⟨⟨_, rfl, by decide⟩, ⟨_, rfl, by decide⟩⟩

theorem witness_HaltAndNop : run.host = [] := by decide

/-- Bounded and unbounded capacity, and both cases of `EKIND`. -/
theorem witness_CsrReads : run.ekind = none ∧ State.ekind { run with ekind := some .signature } =
    some .signature ∧ run.par.capBits = none ∧ (capped run 8).par.capBits = some 8 := by decide

/-- For each writable register the largest value and the one above it; -1 below. -/
theorem witness_CsrWrites : (regs run 7 8 (-1)).x.get 1 = some 7 ∧ (regs run 7 8 (-1)).x.get 2 = some 8 ∧
    (regs run 65535 65536 0).x.get 1 = some 65535 ∧ (regs run 65535 65536 0).x.get 2 = some 65536 ∧
    (regs run 2 3 4).x.get 1 = some 2 ∧ (regs run 2 3 4).x.get 2 = some 3 ∧
    (regs run 2 3 4).x.get 3 = some 4 ∧ (regs run 7 8 (-1)).x.get 3 = some (-1) := by decide

theorem witness_Moves : (regs run 1 2 3).x.get 1 = some 1 ∧ (pub run).k.get 1 = some 17 ∧
    (pub run).k.get 8 = none := by decide

theorem witness_ExactArithmetic : (regs run (-2) 3 0).x.get 1 = some (-2) ∧
    (regs run (-2) 3 0).x.get 2 = some 3 := by decide

/-- Divisors -1, 0, 1, and a state whose registers fit. -/
theorem witness_DivisionAndResidue : (regs run (-7) 0 1).x.get 1 = some (-7) ∧
    (regs run (-7) 0 1).x.get 2 = some 0 ∧ (regs run (-7) 0 1).x.get 3 = some 1 ∧
    (regs run (-7) (-1) 1).x.get 2 = some (-1) ∧ RegistersFit (regs run (-7) 0 1) :=
  ⟨by decide, by decide, by decide, by decide, registersFit_unbounded rfl⟩

theorem witness_CompareAndTestBit : busy.x.get 1 = some 1 ∧ busy.x.get 2 = some 2 := by decide

/-- A modulus 0, a negative exponent without and with an inverse, an exponent 0. -/
theorem witness_ModularPower : (regs run 2 (-1) 0).x.get 3 = some 0 ∧ NoPower 2 (-1) 0 ∧
    NoPower 2 (-1) 4 ∧ ¬ NoPower 3 (-1) 4 ∧ ¬ NoPower 0 0 1 := by
  refine ⟨by decide, ?_, ?_, ?_, ?_⟩ <;> unfold NoPower <;> decide +kernel

theorem witness_ModularInverse : (regs run 4 6 0).x.get 1 = some 4 ∧ (regs run 4 6 0).x.get 2 = some 6 ∧
    Int.gcd 4 6 ≠ 1 ∧ (regs run 0 1 0).x.get 2 = some 1 ∧ Int.gcd 0 1 = 1 ∧
    (regs run 4 0 0).x.get 2 = some 0 := by decide +kernel

/-- Factor `n` (refused) and `n - 1` (legal), an even modulus, the modulus 1. -/
theorem witness_MontgomeryProduct : (regs run 97 96 97).x.get 1 = some 97 ∧
    (regs run 97 96 97).x.get 2 = some 96 ∧ (regs run 97 96 97).x.get 3 = some 97 ∧
    (96 : Int) < 97 ∧ (97 : Int) % 2 = 1 ∧ (regs run 0 0 1).x.get 3 = some 1 ∧
    (regs run 0 0 8).x.get 3 = some 8 := by decide

/-- `v = 4^w - 1` (legal) and `4^w` (refused), for `m = 1`, `w = 1`. -/
theorem witness_BarrettConstantAndReduction : (regs run 3 1 4).x.get 1 = some 3 ∧
    (regs run 3 1 4).x.get 2 = some 1 ∧ (regs run 3 1 4).x.get 3 = some 4 ∧
    (3 : Int) < 4 ^ Nat.size (1 : Int).toNat ∧ (4 : Int) ^ Nat.size (1 : Int).toNat ≤ 4 := by
  decide +kernel

theorem witness_ShiftsAndBits : (regs run (-8) 0 0).x.get 1 = some (-8) := by decide

theorem witness_BitwiseLogic : (regs run (-5) (-3) 0).x.get 1 = some (-5) ∧
    (regs run (-5) (-3) 0).x.get 2 = some (-3) := by decide

theorem witness_TwosComplementReading : (∀ i, 3 ≤ i → (decide (3 ≤ i)) = true) ∧ maglen (-4) ≤ 3 := by
  exact ⟨fun i h => by simp [h], by decide⟩

/-- A last string that fits (`PTR + n = OM_SIZE`) and a first that does not. -/
theorem witness_EncStoresTheCanonicalEncoding : run.par.wf = true ∧ run.x.get 1 = none ∧
    (regs run 127 128 (-1)).x.get 1 = some 127 ∧ (regs run 127 128 (-1)).x.get 2 = some 128 ∧
    (regs run 127 128 (-1)).x.get 3 = some (-1) ∧
    (4095 : BitVec 16).toNat + (Nat.size (127 : Int).toNat / 8 + 1) ≤ run.par.omSize ∧
    run.par.omSize < (4095 : BitVec 16).toNat + (Nat.size (128 : Int).toNat / 8 + 1) := by
  decide +kernel

theorem witness_I2ospStoresExactlyLenBytes : run.x.get 1 = none ∧
    (regs run 255 256 (-1)).x.get 1 = some 255 ∧ (255 : Int) < 256 ^ (1 : BitVec 16).toNat ∧
    (256 : Int) ^ (1 : BitVec 16).toNat ≤ 256 ∧ (regs run 255 256 (-1)).x.get 2 = some 256 ∧
    (regs run 255 256 (-1)).x.get 3 = some (-1) ∧
    (4095 : BitVec 16).toNat + (1 : BitVec 16).toNat ≤ run.par.omSize ∧
    run.par.omSize < (4096 : BitVec 16).toNat + (1 : BitVec 16).toNat := by decide +kernel

theorem witness_LoadsReadTheString :
    (4095 : BitVec 16).toNat + (1 : BitVec 16).toNat ≤ run.par.omSize ∧
    run.par.omSize < (4095 : BitVec 16).toNat + (2 : BitVec 16).toNat := by decide

theorem witness_OctetRoundTrips : busy.status = .running ∧ busy.par.wf = true ∧
    (∃ t, exec (.i2osp 1) busy = .next t ∧ t.status ≠ .error) ∧
    (∃ t, exec (.os2ip 1) busy = .next t ∧ t.status ≠ .error) ∧
    (∃ t, exec (.enc 1) busy = .next t ∧ t.status ≠ .error) :=
  ⟨rfl, by decide, ⟨_, rfl, by decide⟩, ⟨_, rfl, by decide⟩, ⟨_, rfl, by decide⟩⟩

theorem witness_DrawsCoverTheirRanges : 5 ≤ 25 ∧ 2 ≤ 2 ∧ 23 ≤ 25 - 2 ∧ 2 ^ (5 - 1) + 1 ≤ 17 ∧
    31 ≤ 2 ^ 5 - 1 ∧ 17 % 2 = 1 ∧ 31 % 2 = 1 ∧ randomValue ⟨[0x02, 0x11], 0, 0⟩ 2 = 529 := by
  decide +kernel

/-- A liar, a witness, and the draws of a passing and of a failing call (44_prime.md R166, R172). -/
theorem witness_RoundsStopAtTheFirstWitness :
    (25 - 1 = 2 ^ 3 * 3 ∧ mrWitness 7 25 = false ∧ mrWitness 2 25 = true ∧ 7 ^ (2 ^ 1 * 3) % 25 = 25 - 1) ∧
    millerRabin 25 1 ⟨[0x05], 0, 0⟩ = (true, ⟨[], 1, 1⟩) ∧
    millerRabin 25 2 ⟨[0x05, 0x00], 0, 0⟩ = (false, ⟨[], 2, 2⟩) ∧
    drawnBases 25 2 ⟨[0x05, 0x00], 0, 0⟩ = ([7, 2], ⟨[], 2, 2⟩) := by decide +kernel

theorem witness_SieveFindsTheNextCoprime : 17 ≤ 19 ∧ 19 < sieve 17 ∧ 19 % 2 = 17 % 2 := by
  decide +kernel

theorem witness_PrimalityTest : (regs run 1 2 4).x.get 1 = some 1 ∧ (regs run 1 2 4).x.get 2 = some 2 ∧
    (regs run 1 2 4).x.get 3 = some 4 ∧ (regs run 3 5 4).x.get 1 = some 3 ∧
    (regs run 3 5 4).x.get 2 = some 5 := by decide

theorem witness_PtestNeverRejectsAPrime : (regs run 23 0 0).x.get 1 = some ((23 : Nat) : Int) ∧
    Nat.Prime 23 ∧ (64 : Imm).toNat ≠ 0 := ⟨by decide, by norm_num, by decide⟩

/-- The answers of a source that keeps a generator of 6-bit primes looping: each candidate is 63, which the
sieve carries past 6 bits (44_prime.md R171). -/
def carries (n : Nat) : List Byte := List.replicate n 0x3F

theorem primePass_carries (safe : Bool) (rest : List Byte) (b c : Nat) :
    primePass 6 safe ⟨0x3F :: rest, b, c⟩ = (none, ⟨rest, b + 1, c + 1⟩) := by
  have hs : sieve 63 = 67 := by decide +kernel
  have hd : drawCandidate 6 ⟨0x3F :: rest, b, c⟩ = (63, ⟨rest, b + 1, c + 1⟩) := by
    simp [drawCandidate, rngFill, rngBytes, shapeCandidate, beVal]
  simp only [primePass, hd, hs, if_pos (show natLen 67 ≠ 6 by decide)]

theorem carries_succ (f : Nat) : carries (f + 1) = 0x3F :: carries f := List.replicate_succ

theorem primeGen_carries (safe : Bool) (f b c : Nat) :
    primeGen 6 safe f ⟨carries f, b, c⟩ = (none, ⟨[], b + f, c + f⟩) := by
  induction f generalizing b c with
  | zero => rfl
  | succ f ih => rw [carries_succ, primeGen, primePass_carries]; simp only [ih]; congr 2 <;> omega

theorem keyGen_carries (w : Option Nat) (f b c : Nat) :
    keyGen 12 f w ⟨carries f, b, c⟩ = (.more w, ⟨[], b + f, c + f⟩) := by
  induction f generalizing b c with
  | zero => cases w <;> rfl
  | succ f ih =>
    rw [carries_succ]
    cases w <;> rw [keyGen, show 12 / 2 = 6 from rfl, primePass_carries] <;> simp only [ih] <;>
      congr 2 <;> omega

/-- A generator that is still looping at the end of its step, before and after its first prime. -/
def looping (w : Option Nat) : State := { drawing run (carries Config.genAttempts) with work := w }

theorem keyGen_looping (w : Option Nat) :
    keyGen (12 : Imm).toNat Config.genAttempts (looping w).work (looping w).rng =
      (.more w, ⟨[], 4096, 4096⟩) := by
  exact (keyGen_carries w Config.genAttempts 0 0).trans rfl

theorem primeGen_looping (safe : Bool) :
    primeGen (6 : Imm).toNat safe Config.genAttempts (looping none).rng = (none, ⟨[], 4096, 4096⟩) := by
  exact (primeGen_carries safe Config.genAttempts 0 0).trans rfl

theorem witness_PrimeGenerationCommands : (4 : Imm).toNat < 5 ∧ 5 ≤ (5 : Imm).toNat ∧
    primeGen 5 true Config.genAttempts ⟨0x17 :: zs 128, 0, 0⟩ = (some 23, ⟨[], 129, 129⟩) ∧
    Fits (capped run 5) 23 ∧ ¬ Fits (capped run 4) 23 ∧
    primeGen (6 : Imm).toNat false Config.genAttempts (looping none).rng = (none, ⟨[], 4096, 4096⟩) := by
  refine ⟨by decide, by decide, by decide +kernel, ?_, ?_, primeGen_looping false⟩ <;>
    rw [← fits_iff] <;> decide

theorem witness_GeneratedValuesKeepTheirPromises :
    primeGen 8 false 2 ⟨0xFD :: 0xB5 :: zs 64, 0, 0⟩ = (some 181, ⟨[], 66, 66⟩) ∧
    keyGen 10 2 none pair.rng = (.done 23 29, ⟨[], 130, 130⟩) ∧
    keyGen 10 1 none pair.rng = (.more (some 23), ⟨0x1D :: zs 64, 65, 65⟩) ∧
    keyGen 10 1 (some 23) ⟨0x1D :: zs 64, 65, 65⟩ = (.done 23 29, ⟨[], 130, 130⟩) := by decide +kernel

theorem witness_PublicKeyPrimitives : run.x.get 1 = none ∧
    (regs (pub run) 3232 3233 (-1)).x.get 1 = some 3232 ∧
    (regs (pub run) 3232 3233 (-1)).x.get 2 = some 3233 ∧
    (regs (pub run) 3232 3233 (-1)).x.get 3 = some (-1) ∧ (pub run).k.get 0 = some 3233 ∧
    (pub run).k.get 1 = some 17 ∧ run.k.get 0 = none := by decide

theorem witness_PrivateKeyModulusForm : run.kform = .noKey ∧ (priv run).kform = .modKey ∧
    (priv run).k.get 2 = some 3233 ∧ (priv run).k.get 3 = some 2753 ∧
    (run.setKform .modKey).k.get 3 = none ∧ (regs (priv run) 3232 3233 0).x.get 1 = some 3232 := by
  decide

theorem witness_PrivateKeyCrtForm : (crt run).kform = .crtKey ∧ (crt run).k.get 2 = some 3233 ∧
    (crt run).k.get 4 = some 61 ∧ (crt run).k.get 5 = some 53 ∧ (crt run).k.get 6 = some 53 ∧
    (crt run).k.get 7 = some 49 ∧ (crt run).k.get 8 = some 38 ∧ ¬ NoPower 3232 53 61 ∧
    ¬ NoPower 3232 49 53 ∧ (∃ j ∈ [2, 4, 5, 6, 7, 8], (run.setKform .crtKey).k.get j = none) ∧
    NoPower 1 1 0 := by
  refine ⟨by decide, by decide, by decide, by decide, by decide, by decide, by decide, ?_, ?_,
    by decide, ?_⟩ <;> unfold NoPower <;> decide

/-- Two refused lengths, an accepted pair, a value that does not fit, and a generation still in progress. -/
theorem witness_KeygenInstallsAModulusKey : (11 : Imm).toNat % 2 = 1 ∧ (8 : Imm).toNat < 10 ∧
    (10 : Imm).toNat % 2 = 0 ∧ 10 ≤ (10 : Imm).toNat ∧
    keyGen (10 : Imm).toNat Config.genAttempts pair.work pair.rng = (.done 23 29, ⟨[], 130, 130⟩) ∧
    (Fits pair 667 ∧ Fits pair 65537 ∧ Fits pair 593) ∧ ¬ Fits (capped pair 16) 65537 ∧
    (12 : Imm).toNat % 2 = 0 ∧ 10 ≤ (12 : Imm).toNat ∧
    keyGen (12 : Imm).toNat Config.genAttempts (looping none).work (looping none).rng =
      (.more none, ⟨[], 4096, 4096⟩) := by
  refine ⟨by decide, by decide, by decide, by decide, by decide +kernel,
    ⟨fits_unbounded rfl _, fits_unbounded rfl _, fits_unbounded rfl _⟩, ?_, by decide, by decide,
    keyGen_looping none⟩
  rw [← fits_iff]
  decide +kernel

/-- Two refused lengths, a pair that is not coprime, a coprime pair, a value that does not fit, and a
generation still in progress with its first prime drawn. -/
theorem witness_KeygencInstallsACrtKey : (11 : Imm).toNat % 2 = 1 ∧ (8 : Imm).toNat < 10 ∧
    (10 : Imm).toNat % 2 = 0 ∧ 10 ≤ (10 : Imm).toNat ∧
    (keyGen (10 : Imm).toNat Config.genAttempts twin.work twin.rng = (.done 23 23, ⟨[], 130, 130⟩) ∧
      Nat.gcd 23 23 ≠ 1) ∧
    (keyGen (10 : Imm).toNat Config.genAttempts pair.work pair.rng = (.done 23 29, ⟨[], 130, 130⟩) ∧
      Nat.gcd 23 29 = 1) ∧
    (∀ v ∈ [(667 : Int), 65537, 593, 23, 29, 21, 5, 4], Fits pair v) ∧
    (¬ ∀ v ∈ [(667 : Int), 65537, 593, 23, 29, 21, 5, 4], Fits (capped pair 16) v) ∧
    (12 : Imm).toNat % 2 = 0 ∧ 10 ≤ (12 : Imm).toNat ∧
    keyGen (12 : Imm).toNat Config.genAttempts (looping (some 61)).work (looping (some 61)).rng =
      (.more (some 61), ⟨[], 4096, 4096⟩) := by
  refine ⟨by decide, by decide, by decide, by decide, ⟨by decide +kernel, by decide⟩,
    ⟨by decide +kernel, by decide⟩, fun v _ => fits_unbounded rfl v, fun h => ?_, by decide, by decide,
    keyGen_looping (some 61)⟩
  have := (fits_iff _ _).2 (h 65537 (by simp))
  revert this
  decide +kernel

theorem witness_UnitsComputeTheirResults : (0 : Int) < 97 ∧ (97 : Int) % 2 = 1 ∧ (0 : Int) ≤ 96 ∧
    (96 : Int) < 97 ∧ (16383 : Int) < 4 ^ Nat.size (97 : Int).toNat := by decide +kernel

theorem witness_MontgomeryFormLoopIsModPow : (1 : Int) < 3 ∧ (3 : Int) % 2 = 1 := by decide

theorem witness_CrtFormEqualsModulusForm : Nat.Prime 61 ∧ Nat.Prime 53 ∧ (61 : Nat) ≠ 53 ∧
    (0 : Int) < 2753 ∧ (53 : Int) % (((61 : Nat) : Int) - 1) = 2753 % (((61 : Nat) : Int) - 1) ∧
    (49 : Int) % (((53 : Nat) : Int) - 1) = 2753 % (((53 : Nat) : Int) - 1) ∧
    (38 : Int) * (53 : Nat) % (61 : Nat) = 1 ∧ (3232 : Int) < (61 : Nat) * (53 : Nat) := by
  refine ⟨by norm_num, by norm_num, by decide, by decide, ?_, ?_, ?_, ?_⟩ <;> decide

theorem witness_RsadpAfterRsaepIsTheMessage : Nat.Prime 61 ∧ Nat.Prime 53 ∧
    (17 : Int) * 2753 % ((((61 : Nat) : Int) - 1) * (((53 : Nat) : Int) - 1)) =
      1 % ((((61 : Nat) : Int) - 1) * (((53 : Nat) : Int) - 1)) ∧
    (priv (pub (regs run 65 0 0))).kform = .modKey ∧
    (priv (pub (regs run 65 0 0))).k.get 0 = some ((61 : Nat) * (53 : Nat) : Int) ∧
    (priv (pub (regs run 65 0 0))).k.get 1 = some 17 ∧
    (priv (pub (regs run 65 0 0))).k.get 2 = some ((61 : Nat) * (53 : Nat) : Int) ∧
    (priv (pub (regs run 65 0 0))).k.get 3 = some 2753 ∧
    RegistersFit (priv (pub (regs run 65 0 0))) ∧
    (priv (pub (regs run 65 0 0))).x.get 1 = some 65 ∧ (65 : Int) < (61 : Nat) * (53 : Nat) :=
  ⟨by norm_num, by norm_num, by decide, by decide, by decide, by decide, by decide, by decide,
    registersFit_unbounded rfl, by decide, by decide⟩

end Sys2Proof.Tests
end

section
/-!
The interrupt request line (10_state.md R40): its value in each of the four states of `STATUS`, and O11.
-/

namespace Sys2Proof.Machine

namespace State

variable {s : State}

@[simp] theorem irq_of_idle (h : s.status = .idle) : s.irq = false := by simp [irq, h]

@[simp] theorem irq_of_running (h : s.status = .running) : s.irq = false := by simp [irq, h]

@[simp] theorem irq_of_done (h : s.status = .done) : s.irq = s.ie.getLsbD 0 := by simp [irq, h]

@[simp] theorem irq_of_error (h : s.status = .error) : s.irq = s.ie.getLsbD 1 := by simp [irq, h]

end State

/-- Settles O11, by cases on `STATUS`. -/
theorem interruptRequestIsALevel : Obligations.InterruptRequestIsALevel := by
  intro s
  cases h : s.status with
  | idle => simp [State.irq_of_idle h]
  | running => simp [State.irq_of_running h]
  | done => simp [State.irq_of_done h]
  | error => simp [State.irq_of_error h]

end Sys2Proof.Machine
end

section
/-!
The host moves that change `STATUS` without a reset: `HostStart` and `HostClear` in each state
(20_memory.md R63, R64), and O8.
-/

namespace Sys2Proof.Machine

namespace State

variable {s : State} {e : BitVec 16}

@[simp] theorem hostMove_start : s.hostMove (.start e) = .next (s.hostStart e) := rfl

@[simp] theorem hostMove_clear : s.hostMove .clear = .next s.hostClear := rfl

theorem hostStart_of_idle (h : s.status = .idle) :
    s.hostStart e = { s with pc := e, status := .running } := if_pos h

theorem hostStart_of_ne_idle (h : s.status ≠ .idle) : s.hostStart e = s := if_neg h

theorem hostClear_of_done_or_error (h : s.status = .done ∨ s.status = .error) :
    s.hostClear = { s with status := .idle, ekind := none, epc := 0 } := by
  rcases h with h | h <;> simp [hostClear, h]

theorem hostClear_of_idle_or_running (h : s.status = .idle ∨ s.status = .running) :
    s.hostClear = s := by
  rcases h with h | h <;> simp [hostClear, h]

end State

/-- Settles O8: each clause is the move's rule in that state; IRQ is low in the `IDLE` that `HostClear`
leaves (10_state.md R40). -/
theorem hostStartAndHostClear : Obligations.HostStartAndHostClear := by
  intro s e
  refine ⟨fun h => ?idleStart, fun h => ?otherStart, fun h => ⟨?clears, ?irqDrops⟩, fun h => ?keeps⟩
  case idleStart => rw [State.hostMove_start, State.hostStart_of_idle h]
  case otherStart => rw [State.hostMove_start, State.hostStart_of_ne_idle h]
  case clears => rw [State.hostMove_clear, State.hostClear_of_done_or_error h]
  case irqDrops => exact State.irq_of_idle rfl
  case keeps => rw [State.hostMove_clear, State.hostClear_of_idle_or_running h]

end Sys2Proof.Machine
end

section
/-!
The machine's step when the engine runs and no host move is pending (46_control.md R215): the fetch at
`pc`, and a step for each of its three endings; then O6.
-/

namespace Sys2Proof.Machine

namespace State

variable {s : State}

theorem fetch_of_cmSize_le (h : s.par.cmSize ≤ s.pc.toNat) : s.fetch = none := if_pos h

theorem fetch_of_lt_cmSize (h : s.pc.toNat < s.par.cmSize) : s.fetch = some (s.cmRead s.pc.toNat) :=
  if_neg (Nat.not_le.mpr h)

end State

variable {s : State} {w : Word}

theorem step_of_host_nil (h : s.host = []) : step s = engineStep s := by simp only [step, h]

theorem engineStep_of_fetch_none (hr : s.status = .running) (hf : s.fetch = none) :
    engineStep s = s.raise .fetchFault := by simp only [engineStep, hr, hf]

theorem engineStep_of_decode_error {e : Reject} (hr : s.status = .running) (hf : s.fetch = some w)
    (hd : decode w = .error e) : engineStep s = s.raise .illegalCommand := by
  simp only [engineStep, hr, hf, hd]

theorem engineStep_of_decode_ok {i : Instr} (hr : s.status = .running) (hf : s.fetch = some w)
    (hd : decode w = .ok i) : engineStep s = exec i s := by
  simp only [engineStep, hr, hf, hd]

/-- The table of 30_encoding.md R75 assigns no opcode below `0x01` or above `0x67`. -/
theorem decode_of_opF_outside_table (h : opF w < 0x01 ∨ 0x67 < opF w) :
    decode w = .error .unassignedOpcode := by
  simp only [decode]
  split
  rotate_right
  · rfl
  all_goals omega

/-- Settles O6: each fault is the step's rule for that ending of the fetch; the opcodes of the
two words lie below and above the table's. -/
theorem fetchAndDecodeFaultsAreTaken : Obligations.FetchAndDecodeFaultsAreTaken := by
  refine ⟨fun s hr hh hpc => ?fetchFault, fun s e hr hh hpc hd => ?illegalCommand, ?zeros, ?ones⟩
  case fetchFault =>
    rw [step_of_host_nil hh, engineStep_of_fetch_none hr (State.fetch_of_cmSize_le hpc)]
    rfl
  case illegalCommand =>
    rw [step_of_host_nil hh, engineStep_of_decode_error hr (State.fetch_of_lt_cmSize hpc) hd]
    rfl
  case zeros => exact ⟨_, decode_of_opF_outside_table (by decide)⟩
  case ones => exact ⟨_, decode_of_opF_outside_table (by decide)⟩

end Sys2Proof.Machine
end

section
/-!
The example words of 30_encoding.md R85: what the decoder makes of them, what the assembler makes of their
lines (R81, log 21), and O4.
-/

namespace Sys2Proof.Machine

/-- `ADD` is a format R command, whose low byte must be 0 (30_encoding.md R72). -/
theorem decode_add_of_loF_ne_zero {w : Word} (ho : opF w = 0x12) (hl : loF w ≠ 0) :
    decode w = .error .unusedFieldNotZero := by
  simp [decode, ho, unused, hl]

/-- The assembler's words are the encodings of the commands its lines denote. -/
theorem Asm.assemble_eq_map_encode {base : Nat} {src : String} {is : List Instr}
    (h : Asm.commands (Asm.labelsFrom base (Asm.lines src.toList)) (Asm.lines src.toList) = some is) :
    Asm.assemble base src = some (is.map encode) := by
  simp only [Asm.assemble, h, Option.map_some]

/-- Settles O4: a word decodes by its opcode and fields, a text assembles to the encodings of its commands. -/
theorem specExampleWordsDecode : Obligations.SpecExampleWordsDecode := by
  refine ⟨rfl, rfl, rfl, rfl, rfl, rfl, rfl, rfl, rfl, rfl, rfl, ?unusedByte, ?zeros, ?firstLines,
    ?lastLines⟩
  case unusedByte => exact ⟨_, decode_add_of_loF_ne_zero rfl (by decide)⟩
  case zeros => exact ⟨_, decode_of_opF_outside_table (by decide)⟩
  case firstLines =>
    exact Asm.assemble_eq_map_encode (is := [.halt, .li 1 7, .add 3 1 2, .modpow 4 1 2 3, .cmp 1 2,
      .beq 9, .csrwi .len 4]) (by decide +kernel)
  case lastLines =>
    exact Asm.assemble_eq_map_encode (is := [.csrw .len 5, .kput 4 2, .i2osp 4, .os2ip 4])
      (by decide +kernel)

end Sys2Proof.Machine
end

section
/-!
The infinite two's-complement reading (42_bits.md R140): `bitAt` and the bitwise operations are the
library's `Int.testBit`, `Int.land`, `Int.lor`, `Int.xor` and `Int.lnot`; an integer is determined by its
bits and every eventually constant sequence has one; the signs and the sum; then O39.
-/

namespace Sys2Proof.Machine

/-! ## The bits of an integer -/

theorem testBit_ofNat (m i : Nat) : (Int.ofNat m).testBit i = m.testBit i := rfl

theorem testBit_negSucc (m i : Nat) : (Int.negSucc m).testBit i = !m.testBit i := rfl

/-- `bit(v, i)` in the library's floor division and residue (00_scope.md R13). -/
theorem bitAt_eq_ediv_emod (v : Int) (i : Nat) : bitAt v i = v / 2 ^ i % 2 := by
  have hpow : pow2 i = 2 ^ i := Nat.cast_pow 2 i
  rw [bitAt, fdiv, hpow, Int.fdiv_eq_ediv_of_nonneg _ (by positivity)]
  rfl

/-- `bit(v, i)` is the library's bit of an integer. -/
theorem bitAt_eq_testBit (v : Int) (i : Nat) : bitAt v i = if v.testBit i then 1 else 0 := by
  rw [bitAt_eq_ediv_emod]
  cases v with
  | ofNat m =>
    have hdiv : Int.ofNat m / 2 ^ i = (m / 2 ^ i : Nat) := by simp
    simp only [hdiv, testBit_ofNat, Nat.testBit_eq_decide_div_mod_eq, decide_eq_true_eq]
    split <;> omega
  | negSucc m =>
    have hdiv : Int.negSucc m / 2 ^ i = -(m / 2 ^ i : Nat) - 1 := by
      rw [Int.negSucc_ediv _ (by positivity), neg_add']; rfl
    simp only [hdiv, testBit_negSucc, Nat.testBit_eq_decide_div_mod_eq, Bool.not_eq_true',
      decide_eq_false_iff_not]
    split <;> omega

theorem testBit_of_maglen_le {v : Int} {i : Nat} (h : maglen v ≤ i) :
    v.testBit i = decide (v < 0) := by
  have hlt : v.natAbs < 2 ^ i := (natLen_le_iff _ _).1 h
  cases v with
  | ofNat m =>
    exact (Nat.testBit_lt_two_pow hlt).trans (decide_eq_false (Int.natCast_nonneg m).not_gt).symm
  | negSucc m =>
    have hm : m < 2 ^ i := (Nat.lt_succ_self m).trans hlt
    rw [testBit_negSucc, Nat.testBit_lt_two_pow hm, decide_eq_true (Int.negSucc_lt_zero m)]
    rfl

/-- The far bits agree, so the signs do; then the bits of the two numerals do. -/
theorem eq_of_testBit_eq {u v : Int} (h : ∀ i, u.testBit i = v.testBit i) : u = v := by
  have hsign : (u < 0) ↔ (v < 0) := by
    rw [← decide_eq_decide, ← testBit_of_maglen_le (le_max_left (maglen u) (maglen v)), h,
      testBit_of_maglen_le (le_max_right _ _)]
  cases u <;> cases v
  case ofNat.ofNat m n => exact congrArg Int.ofNat (Nat.eq_of_testBit_eq h)
  case negSucc.negSucc m n =>
    exact congrArg Int.negSucc (Nat.eq_of_testBit_eq fun i => Bool.not_inj (h i))
  case ofNat.negSucc m n =>
    exact absurd (hsign.2 (Int.negSucc_lt_zero n)) (Int.natCast_nonneg m).not_gt
  case negSucc.ofNat m n =>
    exact absurd (hsign.1 (Int.negSucc_lt_zero m)) (Int.natCast_nonneg n).not_gt

/-- By induction on where the sequence becomes constant: `Int.bit` puts the first bit before the rest. -/
theorem exists_testBit_eq (n : Nat) (c : Bool) :
    ∀ f : Nat → Bool, (∀ i, n ≤ i → f i = c) → ∃ v : Int, ∀ i, v.testBit i = f i := by
  induction n with
  | zero =>
    intro f h
    refine ⟨if c then .negSucc 0 else .ofNat 0, fun i => ?_⟩
    rw [h i i.zero_le]
    cases c
    · exact Nat.zero_testBit i
    · exact congrArg not (Nat.zero_testBit i)
  | succ n ih =>
    intro f h
    obtain ⟨v, hv⟩ := ih (fun i => f (i + 1)) fun i hi => h (i + 1) (Nat.succ_le_succ hi)
    refine ⟨Int.bit (f 0) v, fun i => ?_⟩
    cases i with
    | zero => exact Int.testBit_bit_zero _ _
    | succ i => exact (Int.testBit_bit_succ _ _ _).trans (hv i)

/-! ## The bitwise operations are the library's -/

/-- The model's spelling of the bits of `m` that are not in `n`. -/
theorem xor_and_eq_ldiff (m n : Nat) : m ^^^ (m &&& n) = Nat.ldiff m n := by
  refine Nat.eq_of_testBit_eq fun i => ?_
  simp only [Nat.testBit_xor, Nat.testBit_and, Nat.testBit_ldiff]
  cases m.testBit i <;> simp

theorem bitAnd_eq_land (a b : Int) : bitAnd a b = a.land b := by
  cases a <;> cases b <;> simp [bitAnd, Int.land, ← xor_and_eq_ldiff, Nat.and_comm]

theorem bitOr_eq_lor (a b : Int) : bitOr a b = a.lor b := by
  cases a <;> cases b <;> simp [bitOr, Int.lor, ← xor_and_eq_ldiff, Nat.and_comm]

theorem bitXor_eq_xor (a b : Int) : bitXor a b = a.xor b := by
  cases a <;> cases b <;> rfl

theorem bitNot_eq_lnot (a : Int) : bitNot a = a.lnot := by
  cases a with
  | ofNat m => simp [bitNot, Int.lnot, Int.negSucc_eq]; ring
  | negSucc m => simp [bitNot, Int.lnot, Int.negSucc_eq]

/-! ## The operations bit by bit -/

theorem bitAt_bitAnd (a b : Int) (i : Nat) : bitAt (bitAnd a b) i = bitAt a i * bitAt b i := by
  simp only [bitAnd_eq_land, bitAt_eq_testBit, Int.testBit_land]
  cases a.testBit i <;> cases b.testBit i <;> rfl

theorem bitAt_bitOr (a b : Int) (i : Nat) : bitAt (bitOr a b) i = max (bitAt a i) (bitAt b i) := by
  simp only [bitOr_eq_lor, bitAt_eq_testBit, Int.testBit_lor]
  cases a.testBit i <;> cases b.testBit i <;> rfl

theorem bitAt_bitXor (a b : Int) (i : Nat) :
    bitAt (bitXor a b) i = (bitAt a i + bitAt b i) % 2 := by
  simp only [bitXor_eq_xor, bitAt_eq_testBit, Int.testBit_lxor]
  cases a.testBit i <;> cases b.testBit i <;> rfl

theorem bitAt_bitNot (a : Int) (i : Nat) : bitAt (bitNot a) i = 1 - bitAt a i := by
  simp only [bitNot_eq_lnot, bitAt_eq_testBit, Int.testBit_lnot]
  cases a.testBit i <;> rfl

/-! ## Signs, neutral elements and the sum -/

theorem bitAnd_nonneg_iff (a b : Int) : 0 ≤ bitAnd a b ↔ 0 ≤ a ∨ 0 ≤ b := by
  cases a <;> cases b <;> simp [bitAnd]

theorem bitOr_neg_iff (a b : Int) : bitOr a b < 0 ↔ a < 0 ∨ b < 0 := by
  cases a <;> cases b <;> simp [bitOr, Int.negSucc_lt_zero]
  omega

theorem bitXor_neg_iff (a b : Int) : bitXor a b < 0 ↔ (a < 0) ≠ (b < 0) := by
  cases a <;> cases b <;> simp [bitXor, Int.negSucc_lt_zero]
  omega

theorem bitXor_neg_one (a : Int) : bitXor a (-1) = bitNot a := by
  rw [bitNot_eq_lnot]
  cases a
  · exact congrArg Int.negSucc (Nat.xor_zero _)
  · exact congrArg Int.ofNat (Nat.xor_zero _)

theorem bitAnd_neg_one (a : Int) : bitAnd a (-1) = a := by
  cases a
  · exact congrArg Int.ofNat (by simp)
  · exact congrArg Int.negSucc (Nat.or_zero _)

theorem bitOr_zero (a : Int) : bitOr a 0 = a := by
  cases a
  · exact congrArg Int.ofNat (Nat.or_zero _)
  · exact congrArg Int.negSucc (by simp)

/-- Addition as a half adder sees it: XOR is the sum without carries and AND the carries.  Dropping the
first bit of both numbers halves the difference of the two sides. -/
theorem two_pow_dvd_add_sub_xor_land (k : Nat) :
    ∀ a b : Int, 2 ^ k ∣ a + b - (a.xor b + 2 * a.land b) := by
  induction k with
  | zero => simp
  | succ k ih =>
    intro a b
    obtain ⟨q, hq⟩ := ih a.div2 b.div2
    rw [← Int.bit_decomp a, ← Int.bit_decomp b, Int.lxor_bit, Int.land_bit, pow_succ']
    refine ⟨q, ?_⟩
    rw [mul_assoc, ← hq]
    simp only [Int.bit_val]
    cases a.bodd <;> cases b.bodd <;> simp <;> ring

theorem add_eq_bitXor_add_bitAnd (a b : Int) : a + b = bitXor a b + 2 * bitAnd a b := by
  rw [bitXor_eq_xor, bitAnd_eq_land, ← sub_eq_zero]
  refine Int.eq_zero_of_abs_lt_dvd
    (two_pow_dvd_add_sub_xor_land (a + b - (a.xor b + 2 * a.land b)).natAbs a b) ?_
  rw [Int.abs_eq_natAbs]
  exact_mod_cast Nat.lt_two_pow_self

/-- Settles O39: a sequence has one integer by `exists_testBit_eq` and `eq_of_testBit_eq`; the other
clauses are the lemmas above. -/
theorem twosComplementReading : Obligations.TwosComplementReading := by
  refine ⟨fun f n c h => ?reading, fun v i h => ?far,
    fun a b i => ⟨bitAt_bitAnd a b i, bitAt_bitOr a b i, bitAt_bitXor a b i, bitAt_bitNot a i⟩,
    fun a b => ⟨rfl, bitAnd_nonneg_iff a b, bitOr_neg_iff a b, bitXor_neg_iff a b, bitXor_neg_one a,
      bitAnd_neg_one a, bitOr_zero a, add_eq_bitXor_add_bitAnd a b⟩,
    fun _ _ => ⟨rfl, rfl, rfl⟩⟩
  case reading =>
    obtain ⟨v, hv⟩ := exists_testBit_eq n c f h
    have hbits : ∀ i, bitAt v i = if f i then 1 else 0 := fun i => by rw [bitAt_eq_testBit, hv]
    refine ⟨v, hbits, fun u hu => eq_of_testBit_eq fun i => ?_⟩
    have hi := (hu i).trans (hbits i).symm
    simp only [bitAt_eq_testBit] at hi
    revert hi
    cases u.testBit i <;> cases v.testBit i <;> decide
  case far =>
    rw [bitAt_eq_testBit, testBit_of_maglen_le h]
    simp only [decide_eq_true_eq, ← not_le, ite_not]

end Sys2Proof.Machine
end

section
/-!
Byte strings as numbers (00_scope.md R14): the value of a string, of its low-order bytes and of a padded
string; and that the strings `ENC` and `I2OSP` store are both `beBytes` of some length.
-/

namespace Sys2Proof.Machine

/-! ## The value of a string -/

/-- The fold behind `beVal` from any start: the bytes that follow push the start up by their number. -/
theorem foldl_byte_eq (bs : List Byte) : ∀ acc : Nat,
    bs.foldl (fun acc b => acc * 256 + b.toNat) acc = acc * 256 ^ bs.length + beVal bs := by
  induction bs with
  | nil => simp [beVal]
  | cons b bs ih =>
    intro acc
    have hcons : beVal (b :: bs) = (0 * 256 + b.toNat) * 256 ^ bs.length + beVal bs := ih _
    rw [List.foldl_cons, ih, hcons, List.length_cons]
    ring

theorem beVal_cons (b : Byte) (bs : List Byte) :
    beVal (b :: bs) = b.toNat * 256 ^ bs.length + beVal bs := by
  rw [beVal, List.foldl_cons, foldl_byte_eq, zero_mul, zero_add]

/-! ## The low bytes of a number -/

@[simp] theorem beBytes_length (n v : Nat) : (beBytes n v).length = n := by
  induction n with
  | zero => rfl
  | succ n ih => rw [beBytes, List.length_cons, ih]

theorem beVal_beBytes (n v : Nat) : beVal (beBytes n v) = v % 256 ^ n := by
  induction n with
  | zero => rw [pow_zero, Nat.mod_one]; rfl
  | succ n ih =>
    rw [beBytes, beVal_cons, beBytes_length, ih, BitVec.toNat_ofNat, Nat.mod_pow_succ (b := 256),
      add_comm, mul_comm]

/-- A number below `256^n` has only zeros before its low `n` bytes. -/
theorem beBytes_add_of_lt {n v : Nat} (k : Nat) (h : v < 256 ^ n) :
    beBytes (k + n) v = zeros k ++ beBytes n v := by
  induction k with
  | zero => rw [zero_add]; rfl
  | succ k ih =>
    have hdiv : v / 256 ^ (k + n) = 0 :=
      Nat.div_eq_of_lt (h.trans_le (Nat.pow_le_pow_right (by decide) (Nat.le_add_left n k)))
    rw [Nat.add_right_comm, beBytes, hdiv, ih]
    rfl

/-! ## The strings the stores write -/

theorem lt_pow_iff_natLen_le (n v : Nat) : v < 256 ^ n ↔ natLen v ≤ 8 * n := by
  rw [natLen_le_iff, pow_mul]
  rfl

@[simp] theorem mag_length (v : Nat) : (mag v).length = (natLen v + 7) / 8 := beBytes_length _ _

theorem mag_length_le_iff (n v : Nat) : (mag v).length ≤ n ↔ v < 256 ^ n := by
  rw [mag_length, lt_pow_iff_natLen_le]
  omega

theorem lt_pow_mag_length (v : Nat) : v < 256 ^ (mag v).length := (mag_length_le_iff _ v).1 le_rfl

/-- A string longer than `mag(v)` by `k` is `mag(v)` after `k` zeros. -/
theorem zeros_append_mag (k v : Nat) : zeros k ++ mag v = beBytes (k + (mag v).length) v := by
  rw [beBytes_add_of_lt k (lt_pow_mag_length v), mag_length]
  rfl

theorem padded_eq_beBytes {n v : Nat} (h : v < 256 ^ n) : padded n v = beBytes n v := by
  rw [padded, zeros_append_mag, Nat.sub_add_cancel ((mag_length_le_iff n v).2 h)]

theorem encOctets_eq_beBytes (v : Nat) : encOctets v = beBytes (Nat.size v / 8 + 1) v := by
  rw [encOctets, ← natLen_eq_size]
  split
  case isTrue h =>
    refine (zeros_append_mag 1 v).trans (congrArg (beBytes · v) ?_)
    rw [mag_length]
    omega
  case isFalse h =>
    refine (zeros_append_mag 0 v).trans (congrArg (beBytes · v) ?_)
    rw [mag_length]
    omega

/-- The sign-safe encoding has room for a sign bit (43_octets.md R151). -/
theorem lt_half_pow_size (v : Nat) : v < 128 * 256 ^ (Nat.size v / 8) := by
  have hpow : 128 * 256 ^ (Nat.size v / 8) = 2 ^ (7 + 8 * (Nat.size v / 8)) := by
    rw [pow_add, pow_mul]
    rfl
  rw [hpow]
  exact Nat.size_le.1 (by omega)

end Sys2Proof.Machine
end

section
/-!
Strings in octet memory (00_scope.md R12): the claims' readings of a string are the values of the bytes
loaded, and what a store leaves there and elsewhere; then loads and stores inside and outside the memory.
-/

namespace Sys2Proof.Machine

/-! ## What a string in memory reads -/

theorem bigEndianAt_succ (s : State) (a n : Nat) :
    bigEndianAt s a (n + 1) = (s.omRead a).toNat * 256 ^ n + bigEndianAt s (a + 1) n := by
  rw [bigEndianAt, Finset.sum_range_succ', add_comm]
  refine congrArg₂ (· + ·) rfl (Finset.sum_congr rfl fun j _ => ?_)
  rw [Nat.add_right_comm a 1 j, add_assoc, Nat.add_sub_cancel, Nat.sub_sub, Nat.add_comm j 1]

theorem beVal_octets (s : State) (n : Nat) : ∀ a, beVal (s.octets a n) = bigEndianAt s a n := by
  induction n with
  | zero => intro a; rfl
  | succ n ih => intro a; rw [State.octets, beVal_cons, State.octets_length, ih, bigEndianAt_succ]

theorem tcVal_octets (s : State) (a n : Nat) : tcVal (s.octets a n) = twosComplementAt s a n := by
  cases n with
  | zero => rfl
  | succ n =>
    have hval := beVal_octets s (n + 1) a
    rw [State.octets] at hval
    simp only [State.octets, tcVal, twosComplementAt, hval, List.length_cons, State.octets_length,
      Nat.succ_ne_zero, false_or, Nat.cast_pow, Nat.cast_ofNat]

theorem bigEndianAt_setOM_beBytes {n v : Nat} (s : State) (a : Nat) (h : v < 256 ^ n) :
    bigEndianAt (s.setOM a (beBytes n v)) a n = v := by
  have hread := State.octets_setOM s a (beBytes n v)
  rw [beBytes_length] at hread
  rw [← beVal_octets, hread, beVal_beBytes, Nat.mod_eq_of_lt h]

theorem omRead_setOM_beBytes_first (s : State) (a n v : Nat) :
    (s.setOM a (beBytes (n + 1) v)).omRead a = BitVec.ofNat 8 (v / 256 ^ n) :=
  State.omRead_setOM_inside s a 0 (beBytes (n + 1) v) (by simp)

theorem sameOutside_setOM_beBytes (s : State) (a n v : Nat) :
    SameOutside s (s.setOM a (beBytes n v)) a n := fun c hc =>
  State.omRead_setOM_outside s a c _ (by rwa [beBytes_length])

/-! ## Loads and stores -/

namespace State

variable {s : State}

theorem memRead_inside (h : s.ptr.toNat + s.len.toNat ≤ s.par.omSize) (f : List Byte → Answer) :
    s.memRead f = f (s.octets s.ptr.toNat s.len.toNat) := if_neg h.not_gt

theorem memRead_outside (h : s.par.omSize < s.ptr.toNat + s.len.toNat) (f : List Byte → Answer) :
    s.memRead f = .next (faulted s .octetAccess) := if_pos h

theorem memWrite_inside {bs : List Byte} (h : s.ptr.toNat + bs.length ≤ s.par.omSize)
    (f : State → Answer) : s.memWrite bs f = f (s.setOM s.ptr.toNat bs) := if_neg h.not_gt

theorem memWrite_outside {bs : List Byte} (h : s.par.omSize < s.ptr.toNat + bs.length)
    (f : State → Answer) : s.memWrite bs f = .next (faulted s .octetAccess) := if_pos h

end State

theorem omSize_le_of_wf {p : Params} (h : p.wf = true) : p.omSize ≤ 65535 := by
  simp only [Params.wf, Bool.and_eq_true, decide_eq_true_eq] at h
  exact h.2

end Sys2Proof.Machine
end

section
/-!
The octet-string commands (43_octets.md R151 to R154): `ENC` and `I2OSP` on each kind of source, `DEC` and
`OS2IP` as loads; then O40, O41 and O42.
-/

namespace Sys2Proof.Machine

variable {s : State} {ra rd : XReg} {v : Int}

/-! ## Stores -/

theorem faults_enc_of_unset (h : s.x.get ra = none) : Faults (.enc ra) s .unsetRegister :=
  State.readX_none h _

theorem faults_enc_of_neg (hx : s.x.get ra = some v) (hv : v < 0) : Faults (.enc ra) s .badParameter := by
  refine (State.readX_some hx _).trans ?_
  rw [decide_eq_true hv, State.check_true]

theorem exec_enc_of_nonneg (hx : s.x.get ra = some v) (hv : 0 ≤ v) :
    exec (.enc ra) s = s.memWrite (beBytes (Nat.size v.toNat / 8 + 1) v.toNat) fun t =>
      .next (t.setLen (BitVec.ofNat 16 (Nat.size v.toNat / 8 + 1))).advance := by
  refine (State.readX_some hx _).trans ?_
  rw [decide_eq_false hv.not_gt, State.check_false, encOctets_eq_beBytes, beBytes_length]

theorem faults_i2osp_of_unset (h : s.x.get ra = none) : Faults (.i2osp ra) s .unsetRegister :=
  State.readX_none h _

theorem faults_i2osp_of_out_of_range (hx : s.x.get ra = some v)
    (hv : v < 0 ∨ 256 ^ s.len.toNat ≤ v) : Faults (.i2osp ra) s .badParameter := by
  refine (State.readX_some hx _).trans ?_
  by_cases hneg : v < 0
  · rw [decide_eq_true hneg, State.check_true]
  · have hlong : s.len.toNat < (mag v.toNat).length := by
      rw [← not_le, mag_length_le_iff, not_lt, Int.le_toNat (not_lt.1 hneg)]
      exact_mod_cast hv.resolve_left hneg
    rw [decide_eq_false hneg, State.check_false, decide_eq_true hlong, State.check_true]

theorem exec_i2osp_of_in_range (hx : s.x.get ra = some v) (h0 : 0 ≤ v)
    (hv : v.toNat < 256 ^ s.len.toNat) :
    exec (.i2osp ra) s = s.memWrite (beBytes s.len.toNat v.toNat) fun t => .next t.advance := by
  have hshort : ¬ s.len.toNat < (mag v.toNat).length := not_lt.2 ((mag_length_le_iff _ _).2 hv)
  refine (State.readX_some hx _).trans ?_
  rw [decide_eq_false h0.not_gt, State.check_false, decide_eq_false hshort, State.check_false,
    padded_eq_beBytes hv]

/-! ## Loads -/

theorem endsWriting_of_exec_eq_writeX {i : Instr} (h : exec i s = s.writeX rd v) :
    EndsWriting i s rd v :=
  ⟨fun hfit => h.trans (State.writeX_fits hfit), fun hfit => h.trans (State.writeX_not_fits hfit)⟩

theorem exec_os2ip_eq_memRead (s : State) (rd : XReg) :
    exec (.os2ip rd) s = s.memRead fun bs => s.writeX rd (beVal bs) := rfl

theorem exec_dec_eq_memRead (s : State) (rd : XReg) :
    exec (.dec rd) s = s.memRead fun bs => s.writeX rd (tcVal bs) := rfl

/-! ## The obligations -/

/-- Settles O40: the string stored is the low `bitlen(v)/8 + 1` bytes of `v`, whose first byte is the
quotient by `256^(bitlen(v)/8)`; a string inside octet memory has a length that `LEN` can hold. -/
theorem encStoresTheCanonicalEncoding : Obligations.EncStoresTheCanonicalEncoding := by
  intro s ra v hwf
  refine ⟨faults_enc_of_unset, fun hx => ⟨faults_enc_of_neg hx, fun h0 hb => ?outside,
    fun h0 hb => ?inside⟩⟩
  case outside =>
    rw [Faults, exec_enc_of_nonneg hx h0, State.memWrite_outside (by rwa [beBytes_length])]
  case inside =>
    have hlen : (BitVec.ofNat 16 (Nat.size v.toNat / 8 + 1)).toNat = Nat.size v.toNat / 8 + 1 := by
      rw [BitVec.toNat_ofNat, Nat.mod_eq_of_lt]
      have := omSize_le_of_wf hwf
      omega
    have hhalf := lt_half_pow_size v.toNat
    have hfirst : v.toNat / 256 ^ (Nat.size v.toNat / 8) < 128 :=
      Nat.div_lt_of_lt_mul (by rwa [mul_comm])
    have hval : v.toNat < 256 ^ (Nat.size v.toNat / 8 + 1) := by
      rw [pow_succ']
      exact hhalf.trans_le (Nat.mul_le_mul_right _ (by decide))
    rw [exec_enc_of_nonneg hx h0, State.memWrite_inside (by rwa [beBytes_length])]
    refine ⟨_, rfl, rfl, hlen, ?value, ?firstByte, sameOutside_setOM_beBytes s _ _ _⟩
    case value =>
      rw [State.advance_len, State.setLen_len, hlen]
      exact (congrArg Nat.cast (bigEndianAt_setOM_beBytes s _ hval)).trans (Int.toNat_of_nonneg h0)
    case firstByte =>
      refine (congrArg BitVec.toNat (omRead_setOM_beBytes_first s _ _ _)).trans_lt ?_
      rw [BitVec.toNat_ofNat]
      exact (Nat.mod_le _ _).trans_lt hfirst

/-- Settles O41: `mag(v)` is longer than `LEN` exactly when `v` is at or above `256^LEN`, and below it the
string stored is the low `LEN` bytes of `v`. -/
theorem i2ospStoresExactlyLenBytes : Obligations.I2ospStoresExactlyLenBytes := by
  intro s ra v
  have hnat (h0 : 0 ≤ v) (hv : v < 256 ^ s.len.toNat) : v.toNat < 256 ^ s.len.toNat := by
    rw [Int.toNat_lt h0]
    exact_mod_cast hv
  refine ⟨faults_i2osp_of_unset, fun hx => ⟨faults_i2osp_of_out_of_range hx, fun h0 hv hb => ?outside,
    fun h0 hv hb => ?inside⟩⟩
  case outside =>
    rw [Faults, exec_i2osp_of_in_range hx h0 (hnat h0 hv),
      State.memWrite_outside (by rwa [beBytes_length])]
  case inside =>
    rw [exec_i2osp_of_in_range hx h0 (hnat h0 hv), State.memWrite_inside (by rwa [beBytes_length])]
    refine ⟨_, rfl, rfl, ?value, sameOutside_setOM_beBytes s _ _ _⟩
    exact (congrArg Nat.cast (bigEndianAt_setOM_beBytes s _ (hnat h0 hv))).trans
      (Int.toNat_of_nonneg h0)

/-- Settles O42: the value of the bytes loaded is the claim's sum over octet memory. -/
theorem loadsReadTheString : Obligations.LoadsReadTheString := by
  refine fun s rd => ⟨fun h => ⟨?os2ipFaults, ?decFaults⟩, fun h =>
    ⟨endsWriting_of_exec_eq_writeX ?os2ipReads, endsWriting_of_exec_eq_writeX ?decReads⟩⟩
  case os2ipFaults => rw [Faults, exec_os2ip_eq_memRead, State.memRead_outside h]
  case decFaults => rw [Faults, exec_dec_eq_memRead, State.memRead_outside h]
  case os2ipReads => rw [exec_os2ip_eq_memRead, State.memRead_inside h, beVal_octets]
  case decReads => rw [exec_dec_eq_memRead, State.memRead_inside h, tcVal_octets]

end Sys2Proof.Machine
end

section
/-!
The small primes and the sieve (44_prime.md R170): divisibility by a small prime as a common factor with
`SP`, and the numbers the sieve's loop passes over; then O46.
-/

namespace Sys2Proof.Machine

theorem prime_of_mem_smallPrimes : ∀ p ∈ [3, 5, 7, 11, 13, 17, 19], Nat.Prime p := by norm_num

/-- The two readings of *shares a factor* (R170): a common factor with the product of the seven primes is
a common factor with one of them, and a prime shares a factor exactly with its multiples. -/
theorem exists_smallPrime_dvd_iff (c : Nat) :
    (∃ p ∈ [3, 5, 7, 11, 13, 17, 19], p ∣ c) ↔ Nat.gcd c 4849845 ≠ 1 := by
  have hprod : Nat.gcd c 4849845 = 1 ↔ ∀ p ∈ [3, 5, 7, 11, 13, 17, 19], Nat.Coprime c p :=
    Nat.coprime_list_prod_right_iff (l := [3, 5, 7, 11, 13, 17, 19])
  have hprime : ∀ p ∈ [3, 5, 7, 11, 13, 17, 19], (Nat.Coprime c p ↔ ¬ p ∣ c) := fun p hp =>
    Nat.coprime_comm.trans (prime_of_mem_smallPrimes p hp).coprime_iff_not_dvd
  rw [ne_eq, hprod, forall₂_congr hprime]
  simp only [not_forall, not_not, exists_prop]

theorem le_sieveLoop (f c : Nat) : c ≤ sieveLoop f c := by
  induction f generalizing c with
  | zero => exact le_rfl
  | succ f ih =>
    simp only [sieveLoop]
    split
    · exact le_rfl
    · exact (Nat.le_add_right c 2).trans (ih (c + 2))

/-- The loop passes over no coprime number. -/
theorem not_coprime_of_lt_sieveLoop {f c d : Nat} (hcd : c ≤ d) (hd : d < sieveLoop f c)
    (hpar : d % 2 = c % 2) : Nat.gcd d Config.smallPrimeProduct ≠ 1 := by
  induction f generalizing c with
  | zero => exact absurd hd hcd.not_gt
  | succ f ih =>
    simp only [sieveLoop] at hd
    split at hd
    · exact absurd hd hcd.not_gt
    · next hc =>
      obtain rfl | hlt := hcd.eq_or_lt
      · exact hc
      · exact ih (by omega) hd (by omega)

/-- Settles O46: the sieve's result is coprime to `SP` and every number it passed over is not; coprimality
to `SP` is read back as divisibility by none of the small primes. -/
theorem sieveFindsTheNextCoprime : Obligations.SieveFindsTheNextCoprime := by
  refine fun c => ⟨exists_smallPrime_dvd_iff c, le_sieveLoop _ c, sieveLoop_mod_two _ c, ?undivided,
    ?passedOver⟩
  case undivided =>
    intro p hp hdvd
    exact (exists_smallPrime_dvd_iff _).1 ⟨p, hp, hdvd⟩ (sieve_coprime c)
  case passedOver =>
    intro d hcd hd hpar
    exact (exists_smallPrime_dvd_iff d).2 (not_coprime_of_lt_sieveLoop hcd hd hpar)

end Sys2Proof.Machine
end

section
/-!
The modular functions of 41_modular.md: the square-and-multiply loop is the residue of the power (R111,
R113), the extended Euclidean algorithm gives a Bezout coefficient no larger than the modulus (R116), and
`ModInverse` and `ModPow` refuse or answer as the claims say (R111, R114).
-/

namespace Sys2Proof.Machine

/-! ## The power of a nonnegative exponent -/

/-- Each pass keeps `acc · r^e` modulo `m`: an odd `e` moves one factor `r` to `acc`, and the halved
exponent is made up for by the squared base. -/
theorem powLoop_eq {f m acc r e : Nat} (he : e < 2 ^ f) (hacc : acc < m) :
    powLoop f m acc r e = acc * r ^ e % m := by
  induction f generalizing acc r e with
  | zero =>
    obtain rfl : e = 0 := Nat.lt_one_iff.1 he
    rw [powLoop, pow_zero, mul_one, Nat.mod_eq_of_lt hacc]
  | succ f ih =>
    have hhalf : e / 2 < 2 ^ f := Nat.div_lt_of_lt_mul (by rwa [← pow_succ'])
    have hsq : (r * r % m) ^ (e / 2) ≡ r ^ (2 * (e / 2)) [MOD m] := by
      rw [pow_mul, sq]
      exact (Nat.mod_modEq _ m).pow _
    rw [powLoop]
    split_ifs with hzero hodd
    case pos => rw [hzero, pow_zero, mul_one, Nat.mod_eq_of_lt hacc]
    case pos =>
      have hpow : r ^ e = r * r ^ (2 * (e / 2)) := by
        rw [← pow_succ', ← hodd, Nat.div_add_mod]
      rw [ih hhalf (Nat.mod_lt _ (Nat.zero_lt_of_lt hacc)), hpow, ← mul_assoc]
      exact (Nat.mod_modEq _ m).mul hsq
    case neg =>
      have heven : 2 * (e / 2) = e := by omega
      rw [heven] at hsq
      rw [ih hhalf hacc]
      exact hsq.mul_left acc

theorem powMod_eq {m : Int} (hm : 0 < m) (b : Int) (e : Nat) : powMod b e m = b ^ e % m := by
  rw [powMod]
  split_ifs with h1
  case pos => rw [h1, Int.emod_one]
  case neg =>
    have hb : ((emod b m).toNat : Int) = b % m := Int.toNat_of_nonneg (Int.emod_nonneg b hm.ne')
    rw [powLoop_eq ((natLen_le_iff _ _).1 le_rfl) (by omega), one_mul, Int.natCast_mod,
      Int.toNat_of_nonneg hm.le, Nat.cast_pow, hb]
    exact (Int.mod_modEq b m).pow e

/-! ## The extended Euclidean algorithm -/

theorem extEuclid_zero_right (f : Nat) (r0 s0 s1 : Int) : extEuclid f r0 0 s0 s1 = s0 := by
  cases f <;> rfl

theorem extEuclid_succ {r1 : Int} (h1 : 0 < r1) (f : Nat) (r0 s0 s1 : Int) :
    extEuclid (f + 1) r0 r1 s0 s1 = extEuclid f r1 (r0 % r1) s1 (s0 - r0 / r1 * s1) := by
  rw [extEuclid, if_neg h1.ne', fdiv, Int.fdiv_eq_ediv_of_nonneg r0 h1.le, Int.emod_def, mul_comm r1]

/-- The coefficients keep `r = s · a` modulo `n`, so the last one gives the greatest common divisor. -/
theorem extEuclid_mul_modEq {n a : Int} {f : Nat} {r0 r1 s0 s1 : Int} (h0 : 0 ≤ r0) (h1 : 0 ≤ r1)
    (hf : r1 < f) (hs0 : s0 * a ≡ r0 [ZMOD n]) (hs1 : s1 * a ≡ r1 [ZMOD n]) :
    extEuclid f r0 r1 s0 s1 * a ≡ Int.gcd r0 r1 [ZMOD n] := by
  induction f generalizing r0 r1 s0 s1 with
  | zero => exact absurd h1 hf.not_ge
  | succ f ih =>
    obtain rfl | hpos := h1.eq_or_lt
    case inl => rwa [extEuclid_zero_right, Int.gcd_zero_right, Int.natAbs_of_nonneg h0]
    case inr =>
      have hlt : r0 % r1 < f := by
        have := Int.emod_lt_of_pos r0 hpos
        push_cast at hf
        omega
      have hs : (s0 - r0 / r1 * s1) * a ≡ r0 % r1 [ZMOD n] := by
        rw [sub_mul, mul_assoc, Int.emod_def, mul_comm r1]
        exact hs0.sub (hs1.mul_left _)
      rw [extEuclid_succ hpos, ← Int.gcd_emod, Int.gcd_comm]
      exact ih h1 (Int.emod_nonneg r0 hpos.ne') hlt hs1 hs

/-- The sum `r1 · |s0| + r0 · |s1|` never grows, which bounds every coefficient. -/
theorem abs_extEuclid_le {n : Int} {f : Nat} {r0 r1 s0 s1 : Int} (h0 : 0 ≤ r0) (h1 : 0 ≤ r1)
    (hsum : r1 * |s0| + r0 * |s1| ≤ n) (hs0 : |s0| ≤ n) (hs1 : |s1| ≤ n) :
    |extEuclid f r0 r1 s0 s1| ≤ n := by
  induction f generalizing r0 r1 s0 s1 with
  | zero => exact hs0
  | succ f ih =>
    obtain rfl | hpos := h1.eq_or_lt
    case inl => rwa [extEuclid_zero_right]
    case inr =>
      have hr : 0 ≤ r0 % r1 := Int.emod_nonneg r0 hpos.ne'
      have hnext : |s0 - r0 / r1 * s1| ≤ |s0| + r0 / r1 * |s1| := by
        simpa only [abs_mul, abs_of_nonneg (Int.ediv_nonneg h0 h1)] using abs_sub s0 (r0 / r1 * s1)
      have hsum' : r0 % r1 * |s1| + r1 * |s0 - r0 / r1 * s1| ≤ n :=
        calc r0 % r1 * |s1| + r1 * |s0 - r0 / r1 * s1|
          _ ≤ r0 % r1 * |s1| + r1 * (|s0| + r0 / r1 * |s1|) := by gcongr
          _ = r1 * |s0| + (r0 % r1 + r1 * (r0 / r1)) * |s1| := by ring
          _ = r1 * |s0| + r0 * |s1| := by rw [Int.emod_add_mul_ediv]
          _ ≤ n := hsum
      have hs2 : |s0 - r0 / r1 * s1| ≤ n :=
        (le_mul_of_one_le_left (abs_nonneg _) hpos).trans
          ((le_add_of_nonneg_left (mul_nonneg hr (abs_nonneg s1))).trans hsum')
      rw [extEuclid_succ hpos]
      exact ih h1 hr hsum' hs1 hs2

/-- The call `ModInverse` makes: the coefficient it starts with, 1, is that of `a mod n`. -/
theorem extEuclid_emod_spec {n : Int} (hn : 0 < n) (a : Int) :
    extEuclid (n.toNat + 1) (emod a n) n 1 0 * a ≡ Int.gcd a n [ZMOD n] ∧
      |extEuclid (n.toNat + 1) (emod a n) n 1 0| ≤ n := by
  have hr : 0 ≤ emod a n := Int.emod_nonneg a hn.ne'
  constructor
  · have hone : 1 * a ≡ emod a n [ZMOD n] := by
      rw [one_mul]
      exact (Int.mod_modEq a n).symm
    have hzero : 0 * a ≡ n [ZMOD n] := by
      rw [zero_mul]
      exact (Int.modEq_zero_iff_dvd.2 dvd_rfl).symm
    rw [← Int.gcd_emod]
    exact extEuclid_mul_modEq hr hn.le (by omega) hone hzero
  · refine abs_extEuclid_le hr hn.le ?_ ?_ ?_
    · rw [abs_one, abs_zero, mul_one, mul_zero, add_zero]
    · rw [abs_one]
      exact hn
    · rw [abs_zero]
      exact hn.le

/-! ## The inverse -/

theorem invMod_of_ne_one (a : Int) {n : Int} (h1 : n ≠ 1) :
    invMod a n = if extEuclid (n.toNat + 1) (emod a n) n 1 0 < 0
      then extEuclid (n.toNat + 1) (emod a n) n 1 0 + n
      else extEuclid (n.toNat + 1) (emod a n) n 1 0 := if_neg h1

/-- Modulo `n > 1` the normalised coefficient lies in `0 .. n`, and `n` itself is no inverse. -/
theorem invMod_spec {a n : Int} (hn : 0 < n) (hgcd : Int.gcd a n = 1) :
    0 ≤ invMod a n ∧ invMod a n < n ∧ a * invMod a n % n = 1 % n := by
  obtain rfl | h1 := eq_or_ne n 1
  case inl => exact ⟨le_rfl, hn, by rw [Int.emod_one, Int.emod_one]⟩
  case inr =>
    obtain ⟨hmul, habs⟩ := extEuclid_emod_spec hn a
    have hinv := invMod_of_ne_one a h1
    rw [hgcd] at hmul
    generalize extEuclid (n.toNat + 1) (emod a n) n 1 0 = s at hmul habs hinv
    obtain ⟨hlow, hhigh⟩ := abs_le.1 habs
    have hmod : invMod a n ≡ s [ZMOD n] := by
      rw [hinv]
      split
      · exact Int.add_modEq_right
      · rfl
    have hone : a * invMod a n ≡ 1 [ZMOD n] := (mul_comm a _ ▸ hmod.mul_right a).trans hmul
    have hrange : 0 ≤ invMod a n ∧ invMod a n ≤ n := by
      rw [hinv]
      split <;> omega
    have hne : invMod a n ≠ n := fun h => by
      have hdvd : n ∣ 1 := hone.dvd_iff.1 (dvd_mul_of_dvd_right h.symm.dvd a)
      exact h1 (Int.eq_one_of_dvd_one hn.le hdvd)
    exact ⟨hrange.1, hrange.2.lt_of_ne hne, hone⟩

theorem modInverse_eq_error {a n : Int} (h : n ≤ 0 ∨ Int.gcd a n ≠ 1) :
    modInverse a n = .error .badParameter := by
  rw [modInverse]
  split_ifs with hn h1 hgcd
  case pos => rfl
  case pos =>
    rw [h1, Int.gcd_one_right] at h
    omega
  case pos => rfl
  case neg =>
    rw [igcd] at hgcd
    omega

theorem exists_modInverse_eq_ok {a n : Int} (hn : 0 < n) (hgcd : Int.gcd a n = 1) :
    ∃ t, 0 ≤ t ∧ t < n ∧ a * t % n = 1 % n ∧ modInverse a n = .ok t := by
  obtain ⟨hlow, hhigh, hmul⟩ := invMod_spec hn hgcd
  refine ⟨invMod a n, hlow, hhigh, hmul, ?_⟩
  obtain rfl | h1 := eq_or_ne n 1
  case inl => rfl
  case inr =>
    have hcop : ¬ igcd a n ≠ 1 := not_not.2 (congrArg Nat.cast hgcd)
    rw [modInverse, if_neg hn.not_ge, if_neg h1, if_neg hcop]

/-! ## The power of any exponent -/

theorem modPow_of_nonneg {b e m : Int} (hm : 0 < m) (he : 0 ≤ e) :
    modPow b e m = .ok (b ^ e.toNat % m) := by
  rw [modPow, if_neg hm.not_ge, if_neg he.not_gt, powMod_eq hm]

theorem modPow_of_neg {b e m : Int} (hm : 0 < m) (he : e < 0) :
    modPow b e m = modInverse (b ^ (-e).toNat % m) m := by
  rw [modPow, if_neg hm.not_ge, if_pos he, powMod_eq hm]

theorem modPow_of_noPower {b e m : Int} (h : NoPower b e m) : modPow b e m = .error .badParameter := by
  obtain hm | hm := le_or_gt m 0
  · rw [modPow, if_pos hm]
  · obtain ⟨he, hgcd⟩ := h.resolve_left hm.not_ge
    rw [modPow_of_neg hm he, modInverse_eq_error (.inr (by rwa [Int.gcd_emod]))]

theorem exists_modPow_eq_ok {b e m : Int} (h : ¬ NoPower b e m) :
    ∃ t, IsPower b e m t ∧ modPow b e m = .ok t := by
  obtain ⟨hm, hgcd⟩ := not_or.1 h
  rw [not_le] at hm
  obtain he | he := le_or_gt 0 e
  · exact ⟨_, ⟨Int.emod_nonneg _ hm.ne', Int.emod_lt_of_pos _ hm, fun _ => rfl,
      fun hneg => absurd he hneg.not_ge⟩, modPow_of_nonneg hm he⟩
  · have hcop : Int.gcd (b ^ (-e).toNat % m) m = 1 := by
      rw [Int.gcd_emod]
      exact not_not.1 fun hne => hgcd ⟨he, hne⟩
    obtain ⟨t, hlow, hhigh, hmul, heq⟩ := exists_modInverse_eq_ok hm hcop
    refine ⟨t, ⟨hlow, hhigh, fun hpos => absurd he hpos.not_gt, fun _ => ?_⟩,
      (modPow_of_neg hm he).trans heq⟩
    rw [← hmul, mul_comm]
    exact ((Int.mod_modEq _ m).mul_right t).symm

/-- A command that ends by writing the value of `ModPow` (41_modular.md R112, 45_rsa.md R189). -/
theorem endsWithPower_of_exec_eq_value {i : Instr} {s : State} {rd : XReg} {b e m : Int}
    (h : exec i s = s.value (modPow b e m) fun v => s.writeX rd v) : EndsWithPower i s rd b e m := by
  refine ⟨fun hno => ?refused, fun hpow => ?answered⟩
  case refused => rw [Faults, h, modPow_of_noPower hno, State.value_error]
  case answered =>
    obtain ⟨t, ht, heq⟩ := exists_modPow_eq_ok hpow
    rw [heq, State.value_ok] at h
    exact ⟨t, ht, endsWriting_of_exec_eq_writeX h⟩

end Sys2Proof.Machine
end

section
/-!
The public-key primitives (45_rsa.md R189, R190): what a command that runs `publicPower` does, for any kind
of its range check and any wait that leaves the state as it is; then O52.
-/

namespace Sys2Proof.Machine

section
variable {i : Instr} {K : FaultKind} {w : State → State} {rd ra : XReg} {s : State} {m n e : Int}

theorem faults_publicPower_of_unset_source (hi : exec i s = publicPower K w rd ra s)
    (hx : s.x.get ra = none) : Faults i s .unsetRegister := hi.trans (State.readX_none hx _)

theorem faults_publicPower_of_unset_key (hi : exec i s = publicPower K w rd ra s)
    (hx : s.x.get ra = some m) (hk : s.k.get 0 = none ∨ s.k.get 1 = none) :
    Faults i s .unsetRegister := by
  rw [Faults, hi, publicPower, State.readX_some hx]
  cases h0 : s.k.get 0 with
  | none => rw [State.readK_none h0]
  | some n => rw [State.readK_some h0, State.readK_none (hk.resolve_left (by simp [h0]))]

theorem publicPower_of_set (hx : s.x.get ra = some m) (hn : s.k.get 0 = some n)
    (he : s.k.get 1 = some e) : publicPower K w rd ra s =
      s.check (decide (m < 0 ∨ n ≤ m)) K (s.value (modPow m e n) fun v => (w s).writeX rd v) := by
  rw [publicPower, State.readX_some hx, State.readK_some hn, State.readK_some he]

theorem faults_publicPower_of_out_of_range (hi : exec i s = publicPower K w rd ra s)
    (hx : s.x.get ra = some m) (hn : s.k.get 0 = some n) (he : s.k.get 1 = some e)
    (hm : m < 0 ∨ n ≤ m) : Faults i s K := by
  rw [Faults, hi, publicPower_of_set hx hn he, decide_eq_true hm, State.check_true]

theorem endsWithPower_publicPower (hi : exec i s = publicPower K w rd ra s) (hw : w s = s)
    (hx : s.x.get ra = some m) (hn : s.k.get 0 = some n) (he : s.k.get 1 = some e) (h0 : 0 ≤ m)
    (hm : m < n) : EndsWithPower i s rd m e n := by
  have hin : ¬ (m < 0 ∨ n ≤ m) := not_or.2 ⟨h0.not_gt, hm.not_ge⟩
  refine endsWithPower_of_exec_eq_value (hi.trans ?_)
  rw [publicPower_of_set hx hn he, decide_eq_false hin, State.check_false, hw]

end

theorem exec_rsaep_eq_publicPower (rd ra : XReg) (s : State) :
    exec (.rsaep rd ra) s = publicPower .badParameter id rd ra s := rfl

theorem exec_rsavp1_eq_publicPower (rd ra : XReg) (s : State) :
    exec (.rsavp1 rd ra) s = publicPower .signature State.delay rd ra s := rfl

/-- Settles O52: both commands run `publicPower`, each with the kind of its range check, and neither wait
changes the state. -/
theorem publicKeyPrimitives : Obligations.PublicKeyPrimitives := by
  intro s rd ra m
  have hep := exec_rsaep_eq_publicPower rd ra s
  have hvp := exec_rsavp1_eq_publicPower rd ra s
  refine ⟨fun hx => ⟨faults_publicPower_of_unset_source hep hx,
    faults_publicPower_of_unset_source hvp hx⟩, fun hx => ⟨fun hk => ?unsetKey, fun n e hn he =>
    ⟨fun hm => ?outOfRange, fun h0 hm => ?inRange⟩⟩⟩
  case unsetKey =>
    exact ⟨faults_publicPower_of_unset_key hep hx hk, faults_publicPower_of_unset_key hvp hx hk⟩
  case outOfRange =>
    exact ⟨faults_publicPower_of_out_of_range hep hx hn he hm,
      faults_publicPower_of_out_of_range hvp hx hn he hm⟩
  case inRange =>
    exact ⟨endsWithPower_publicPower hep rfl hx hn he h0 hm,
      endsWithPower_publicPower hvp rfl hx hn he h0 hm⟩

end Sys2Proof.Machine
end

section
/-!
`HALT` and `NOP` (46_control.md R216, R217): what each command answers, and the step the engine does not
take outside `RUNNING`; then O25.
-/

namespace Sys2Proof.Machine

variable {s : State}

theorem engineStep_of_ne_running (h : s.status ≠ .running) : engineStep s = .next s := by
  cases hs : s.status with
  | running => exact absurd hs h
  | idle | done | error => simp only [engineStep, hs]

theorem step_of_ne_running (h : s.status ≠ .running) (hh : s.host = []) : step s = .next s := by
  rw [step_of_host_nil hh, engineStep_of_ne_running h]

theorem exec_halt (s : State) : exec .halt s = .next { s with status := .done } := rfl

theorem exec_nop (s : State) : exec .nop s = .next { s with pc := s.pc + 1 } := rfl

/-- Settles O25: `HALT` leaves a state in `DONE`, where IRQ is bit 0 of `IE` and the engine does not
step. -/
theorem haltAndNop : Obligations.HaltAndNop := by
  refine ⟨fun s => ⟨exec_halt s, State.irq_of_done rfl, fun hh => ?noStep, exec_nop s⟩, ?haltWord,
    ?nopWord⟩
  case noStep => exact step_of_ne_running nofun hh
  case haltWord => rfl
  case nopWord => rfl

end Sys2Proof.Machine
end

section
/-!
The three word formats and their fields (30_encoding.md R70 to R73): what each field of a formatted word
reads, and that a word is the formatted word of its own fields.
-/

namespace Sys2Proof

/-! ## The fields of a formatted word -/

theorem field_ofNat {n : Nat} (hn : n < 2 ^ 32) (hi lo : Nat) :
    field (BitVec.ofNat 32 n) hi lo = n / 2 ^ lo % 2 ^ (hi + 1 - lo) := by
  rw [field, BitVec.toNat_ofNat, Nat.mod_eq_of_lt hn]

section
variable {op rd ra imm : Nat} (ho : op < 256) (hd : rd < 16) (ha : ra < 16) (hi : imm < 65536)
include ho hd ha hi

@[simp] theorem opF_wordI : opF (wordI op rd ra imm) = op := by rw [opF, wordI, field_ofNat] <;> omega
@[simp] theorem rdF_wordI : rdF (wordI op rd ra imm) = rd := by rw [rdF, wordI, field_ofNat] <;> omega
@[simp] theorem raF_wordI : raF (wordI op rd ra imm) = ra := by rw [raF, wordI, field_ofNat] <;> omega
@[simp] theorem immF_wordI : immF (wordI op rd ra imm) = imm := by
  rw [immF, wordI, field_ofNat] <;> omega

end

section
variable {op rd ra rb rc : Nat} (ho : op < 256) (hd : rd < 16) (ha : ra < 16) (hb : rb < 16)
  (hc : rc < 16)
include ho hd ha hb hc

@[simp] theorem opF_wordR : opF (wordR op rd ra rb rc) = op := by rw [opF, wordR, field_ofNat] <;> omega
@[simp] theorem rdF_wordR : rdF (wordR op rd ra rb rc) = rd := by rw [rdF, wordR, field_ofNat] <;> omega
@[simp] theorem raF_wordR : raF (wordR op rd ra rb rc) = ra := by rw [raF, wordR, field_ofNat] <;> omega
@[simp] theorem rbF_wordR : rbF (wordR op rd ra rb rc) = rb := by rw [rbF, wordR, field_ofNat] <;> omega
@[simp] theorem rcF_wordR : rcF (wordR op rd ra rb rc) = rc := by rw [rcF, wordR, field_ofNat] <;> omega
@[simp] theorem loF_wordR : loF (wordR op rd ra rb rc) = 0 := by rw [loF, wordR, field_ofNat] <;> omega

end

/-! ## The ranges of the fields, and fields as operands -/

section
variable (w : Word)

theorem opF_lt : opF w < 256 := Nat.mod_lt _ (by decide)
theorem rdF_lt : rdF w < 16 := Nat.mod_lt _ (by decide)
theorem raF_lt : raF w < 16 := Nat.mod_lt _ (by decide)
theorem immF_lt : immF w < 65536 := Nat.mod_lt _ (by decide)

@[simp] theorem xreg_val (r : XReg) : xreg r = r := Fin.ofNat_val_eq_self r

@[simp] theorem val_xreg_rdF : (xreg (rdF w) : Nat) = rdF w := Nat.mod_mod _ _
@[simp] theorem val_xreg_raF : (xreg (raF w) : Nat) = raF w := Nat.mod_mod _ _
@[simp] theorem val_xreg_rbF : (xreg (rbF w) : Nat) = rbF w := Nat.mod_mod _ _
@[simp] theorem val_xreg_rcF : (xreg (rcF w) : Nat) = rcF w := Nat.mod_mod _ _

@[simp] theorem toNat_immOf : (immOf w).toNat = immF w := Nat.mod_mod _ _

/-! ## A word is the formatted word of its fields -/

theorem wordI_fields : wordI (opF w) (rdF w) (raF w) (immF w) = w := by
  refine BitVec.eq_of_toNat_eq ?_
  have := w.isLt
  simp only [wordI, opF, rdF, raF, immF, field, BitVec.toNat_ofNat]
  omega

theorem immF_eq : immF w = rbF w * 2 ^ 12 + rcF w * 2 ^ 8 + loF w := by
  simp only [immF, rbF, rcF, loF, field]
  omega

/-- The operand bits of a format Z word (30_encoding.md R71). -/
theorem operands_eq_zero_iff : field w 23 0 = 0 ↔ rdF w = 0 ∧ raF w = 0 ∧ immF w = 0 := by
  simp only [field, rdF, raF, immF]
  omega

end

section
variable {w : Word} {op rd ra rb rc imm : Nat}

theorem wordI_eq (h : opF w = op ∧ rdF w = rd ∧ raF w = ra ∧ immF w = imm) :
    wordI op rd ra imm = w := by
  obtain ⟨rfl, rfl, rfl, rfl⟩ := h
  exact wordI_fields w

theorem wordR_eq (h : opF w = op ∧ rdF w = rd ∧ raF w = ra ∧ rbF w = rb ∧ rcF w = rc ∧ loF w = 0) :
    wordR op rd ra rb rc = w := by
  obtain ⟨rfl, rfl, rfl, rfl, rfl, hl⟩ := h
  have himm : immF w = rbF w * 2 ^ 12 + rcF w * 2 ^ 8 := by rw [immF_eq, hl, add_zero]
  rw [wordR, add_assoc (_ + _), ← himm]
  exact wordI_fields w

theorem wordZ_eq_wordI (op : Nat) : wordZ op = wordI op 0 0 0 := by
  simp only [wordZ, wordI, zero_mul, add_zero]

end

end Sys2Proof
end

section
/-!
Decoding and encoding are inverse to each other (30_encoding.md R76, R78): a word that decodes is the word of
a legal command, O2; a legal command's word decodes to it, O1.
-/

namespace Sys2Proof

/-! ## The numbers of the CSRs -/

theorem ofNumber_eq_some {n : Nat} {c : Csr} : Csr.ofNumber? n = some c ↔ c.number = n := by
  constructor
  · intro h
    simp only [Csr.ofNumber?] at h
    split at h <;> cases h <;> rfl
  · rintro rfl
    cases c <;> rfl

theorem number_lt (c : Csr) : c.number < 11 := by cases c <;> decide

theorem number_mem_of_cmdWritable {c : Csr} (h : c.cmdWritable = true) :
    c.number = 1 ∨ c.number = 2 ∨ c.number = 3 ∨ c.number = 6 ∨ c.number = 7 := by
  revert h
  cases c <;> decide

/-! ## A word that decodes -/

/-- What the decoder answers about `w`, if it is a command, is a legal command with the word `w`. -/
def Faithful (w : Word) (r : Except Reject Instr) : Prop :=
  ∀ i, r = .ok i → i.wf = true ∧ encode i = w

section
variable {w : Word} {n : Nat}

theorem faithful_error (e : Reject) : Faithful w (.error e) := nofun

theorem faithful_ok {i : Instr} (hwf : i.wf = true) (he : encode i = w) : Faithful w (.ok i) := by
  rintro _ ⟨⟩
  exact ⟨hwf, he⟩

theorem faithful_unused {fs : List Nat} {r : Except Reject Instr}
    (h : (∀ f ∈ fs, f = 0) → Faithful w r) : Faithful w (unused fs r) := by
  simp only [unused, List.all_eq_true, beq_iff_eq]
  split
  case isTrue hz => exact h hz
  case isFalse => exact faithful_error _

theorem faithful_branchOf {t : Imm} (he : wordI 0x03 n 0 t.toNat = w) : Faithful w (branchOf n t) := by
  simp only [branchOf]
  split
  case h_8 => exact faithful_error _
  all_goals exact faithful_ok rfl he

theorem faithful_csrOf {f : Csr → Instr} (hwf : ∀ c, (f c).wf = true)
    (he : ∀ c : Csr, c.number = n → encode (f c) = w) : Faithful w (csrOf n f) := by
  simp only [csrOf]
  split
  case h_1 c hc => exact faithful_ok (hwf c) (he c (ofNumber_eq_some.1 hc))
  case h_2 => exact faithful_error _

theorem faithful_writableCsrOf {f : Csr → Instr} (hwf : ∀ c, c.cmdWritable = true → (f c).wf = true)
    (he : ∀ c : Csr, c.number = n → encode (f c) = w) : Faithful w (writableCsrOf n f) := by
  simp only [writableCsrOf]
  split
  case h_1 c hc =>
    split
    case isTrue hw => exact faithful_ok (hwf c hw) (he c (ofNumber_eq_some.1 hc))
    case isFalse => exact faithful_error _
  case h_2 => exact faithful_error _

theorem faithful_kregOf {f : KReg → Instr} (hwf : ∀ j, (f j).wf = true)
    (he : ∀ j : KReg, (j : Nat) = n → encode (f j) = w) : Faithful w (kregOf n f) := by
  simp only [kregOf]
  split
  case isTrue h => exact faithful_ok (hwf _) (he _ rfl)
  case isFalse => exact faithful_error _

end

/-- Opcode by opcode: the decoder has checked that the fields it did not read are 0, so the word is the
formatted word of those it read.  The cases follow the decoder's table: formats Z, `B`, the three CSR
commands, `KPUT` and `KGET`, format I without and with an unused field, and last format R. -/
theorem decode_faithful (w : Word) : Faithful w (decode w) := by
  simp only [decode]
  split
  case h_1 | h_2 =>
    refine faithful_unused fun hz => faithful_ok rfl ((wordZ_eq_wordI _).trans (wordI_eq ?_))
    simp_all [operands_eq_zero_iff]
  case h_3 =>
    refine faithful_unused fun hz => faithful_branchOf (wordI_eq ?_)
    simp_all
  case h_4 =>
    refine faithful_unused fun hz => faithful_csrOf (fun _ => rfl) fun c hn => wordI_eq ?_
    simp_all
  case h_5 | h_6 =>
    refine faithful_unused fun hz => faithful_writableCsrOf (fun _ => id) fun c hn => wordI_eq ?_
    simp_all
  case h_38 | h_39 =>
    refine faithful_unused fun hz => faithful_kregOf (fun _ => rfl) fun j hn => wordI_eq ?_
    simp_all
  case h_15 | h_22 | h_23 | h_29 =>
    refine faithful_ok rfl (wordI_eq ?_)
    simp_all
  case h_7 | h_28 | h_35 | h_36 | h_37 | h_44 | h_45 =>
    refine faithful_unused fun hz => faithful_ok rfl (wordI_eq ?_)
    simp_all
  case h_46 => exact faithful_error _
  all_goals
    refine faithful_unused fun hz => faithful_ok rfl (wordR_eq ?_)
    simp_all

/-- Settles O2: the decoder's answer about any word is faithful to it. -/
theorem everyLegalWordIsItsCommandsOnlyWord : Obligations.EveryLegalWordIsItsCommandsOnlyWord :=
  decode_faithful

/-! ## A command's word decodes -/

@[simp] theorem immOf_wordI {op rd ra : Nat} {imm : Imm} (ho : op < 256) (hd : rd < 16) (ha : ra < 16) :
    immOf (wordI op rd ra imm.toNat) = imm := by
  rw [immOf, immF_wordI ho hd ha imm.isLt, BitVec.ofNat_toNat, BitVec.setWidth_eq]

@[simp] theorem csrOf_number (c : Csr) (f : Csr → Instr) : csrOf c.number f = .ok (f c) := by
  rw [csrOf, ofNumber_eq_some.2 rfl]

theorem writableCsrOf_number {c : Csr} (h : c.cmdWritable = true) (f : Csr → Instr) :
    writableCsrOf c.number f = .ok (f c) := by
  simp only [writableCsrOf, ofNumber_eq_some.2 rfl, h, if_true]

@[simp] theorem kregOf_val (j : KReg) (f : KReg → Instr) : kregOf j f = .ok (f j) := dif_pos j.isLt

/-- Settles O1, by cases on the command: the fields of its word select its row of the decoder and give its
operands back. -/
theorem everyCommandDecodesBackFromItsWord : Obligations.EveryCommandDecodesBackFromItsWord := by
  intro i hwf
  cases i
  case halt | nop => rfl
  case csrr rd c =>
    have := number_lt c
    simp (disch := omega) [encode, decode, unused]
  case csrw c ra | csrwi c imm =>
    have := number_lt c
    simp (disch := omega) [encode, decode, unused, writableCsrOf_number hwf]
  case br | bt | bf | beq | bne | blt | bge =>
    simp (disch := omega) [encode, decode, unused, branchOf]
  all_goals simp (disch := omega) [encode, decode, unused]

end Sys2Proof
end

section
/-!
The masks of the opcode table (30_encoding.md R78): what each row asks of the fields of a word, and that a
word of those fields is a word of the row's command; then O3.
-/

namespace Sys2Proof

/-! ## A row's match, field by field -/

theorem field_and (w m : Word) (hi lo : Nat) :
    field (w &&& m) hi lo = field w hi lo &&& field m hi lo := by
  rw [field, BitVec.toNat_and, Nat.and_div_two_pow, Nat.and_mod_two_pow, field, field]

theorem and_eq_iff (w m p : Word) : w &&& m = p ↔ opF w &&& opF m = opF p ∧
    rdF w &&& rdF m = rdF p ∧ raF w &&& raF m = raF p ∧ immF w &&& immF m = immF p := by
  simp only [opF, rdF, raF, immF, ← field_and]
  refine ⟨?fields, fun h => ?word⟩
  case fields =>
    rintro rfl
    exact ⟨rfl, rfl, rfl, rfl⟩
  case word =>
    rw [← wordI_fields p]
    exact (wordI_eq h).symm

theorem hits_iff (r : OpcodeRow) (w : Word) : r.hits w = true ↔
    (opF w &&& opF r.mask = opF r.pattern ∧ rdF w &&& rdF r.mask = rdF r.pattern ∧
      raF w &&& raF r.mask = raF r.pattern ∧ immF w &&& immF r.mask = immF r.pattern) ∧
    r.constraint.holds w = true := by
  rw [OpcodeRow.hits, Bool.and_eq_true, beq_iff_eq, and_eq_iff]

/-! The fields of the table's literals. -/

@[simp] theorem opF_ofNat (n : Nat) : opF (BitVec.ofNat 32 n) = n % 2 ^ 32 / 2 ^ 24 % 2 ^ 8 := rfl
@[simp] theorem rdF_ofNat (n : Nat) : rdF (BitVec.ofNat 32 n) = n % 2 ^ 32 / 2 ^ 20 % 2 ^ 4 := rfl
@[simp] theorem raF_ofNat (n : Nat) : raF (BitVec.ofNat 32 n) = n % 2 ^ 32 / 2 ^ 16 % 2 ^ 4 := rfl
@[simp] theorem immF_ofNat (n : Nat) : immF (BitVec.ofNat 32 n) = n % 2 ^ 32 / 2 ^ 0 % 2 ^ 16 := rfl

/-! A mask keeps the upper fields whole or drops them.  In the lower half it keeps all of `imm16`, or the
bits format R requires to be 0, or the bits above a number field. -/

section
variable (w : Word)

theorem and_ones_of_lt {n : Nat} (k : Nat) (h : n < 2 ^ k) : n &&& (2 ^ k - 1) = n := by
  rw [Nat.and_two_pow_sub_one_eq_mod, Nat.mod_eq_of_lt h]

@[simp] theorem opF_and_ones : opF w &&& 0xFF = opF w := and_ones_of_lt 8 (opF_lt w)
@[simp] theorem rdF_and_ones : rdF w &&& 0xF = rdF w := and_ones_of_lt 4 (rdF_lt w)
@[simp] theorem raF_and_ones : raF w &&& 0xF = raF w := and_ones_of_lt 4 (raF_lt w)
@[simp] theorem immF_and_ones : immF w &&& 0xFFFF = immF w := and_ones_of_lt 16 (immF_lt w)

theorem immF_eq_zero_iff : immF w = 0 ↔ rbF w = 0 ∧ rcF w = 0 ∧ loF w = 0 := by
  rw [immF_eq]
  omega

@[simp] theorem immF_and_low_twelve_eq_zero_iff : immF w &&& 0xFFF = 0 ↔ rcF w = 0 ∧ loF w = 0 := by
  rw [show 0xFFF = 2 ^ 12 - 1 from rfl, Nat.and_two_pow_sub_one_eq_mod]
  simp only [immF, rcF, loF, field]
  omega

@[simp] theorem immF_and_low_byte : immF w &&& 0xFF = loF w := by
  rw [show 0xFF = 2 ^ 8 - 1 from rfl, Nat.and_two_pow_sub_one_eq_mod]
  simp only [immF, loF, field]
  omega

end

theorem and_above_four_bits : ∀ n < 16, n &&& 0xFFF0 = 0 := by decide
theorem and_above_three_bits : ∀ n < 8, n &&& 0xFFF8 = 0 := by decide
theorem and_fourth_bit : ∀ n < 8, n &&& 0x8 = 0 := by decide

/-! ## A word that a row matches -/

/-- The answer is a command of mnemonic `m`. -/
def AnswersWith (m : String) (r : Except Reject Instr) : Prop := ∃ i, r = .ok i ∧ i.mnemonic = m

section
variable {m : String} {n : Nat} {w : Word}

@[simp] theorem answersWith_ok (i : Instr) : AnswersWith m (.ok i) ↔ i.mnemonic = m :=
  ⟨fun ⟨_, hi, hm⟩ => Except.ok.inj hi ▸ hm, fun hm => ⟨i, rfl, hm⟩⟩

theorem answersWith_csrOf {f : Csr → Instr} (h : n ≤ 10) (hm : ∀ c, (f c).mnemonic = m) :
    AnswersWith m (csrOf n f) := by
  interval_cases n <;> exact ⟨_, rfl, hm _⟩

theorem answersWith_writableCsrOf {f : Csr → Instr} (h : n = 1 ∨ n = 2 ∨ n = 3 ∨ n = 6 ∨ n = 7)
    (hm : ∀ c, (f c).mnemonic = m) : AnswersWith m (writableCsrOf n f) := by
  rcases h with rfl | rfl | rfl | rfl | rfl <;> exact ⟨_, rfl, hm _⟩

theorem answersWith_kregOf {f : KReg → Instr} (h : n ≤ 8) (hm : ∀ j, (f j).mnemonic = m) :
    AnswersWith m (kregOf n f) := ⟨_, dif_pos (Nat.lt_succ_of_le h), hm _⟩

/-! Each table is read row by row: first what the row asks of the fields, then the decoder on a word with
such fields; the number fields are left to the lemmas above. -/

theorem answersWith_of_hits_controlRows :
    ∀ r ∈ controlRows, r.hits w = true → AnswersWith r.mnemonic (decode w) := by
  simp only [controlRows, BitVec.ofNat_eq_ofNat, List.mem_cons, List.not_mem_nil, or_false, hits_iff,
    RowConstraint.holds, List.contains_eq_mem, and_imp, forall_eq_or_imp, opF_ofNat, Nat.reducePow,
    Nat.mod_succ, Nat.reduceDiv, opF_and_ones, Nat.reduceMod, Nat.ofNat_pos, Nat.div_self, Nat.one_mod,
    rdF_ofNat, rdF_and_ones, Nat.mod_self, raF_ofNat, raF_and_ones, immF_ofNat, pow_zero, Nat.div_one,
    immF_and_ones, forall_const, Nat.and_zero, decide_eq_true_eq, Bool.decide_or, Bool.or_eq_true,
    forall_eq]
  simp +contextual [decode, unused, branchOf, Instr.mnemonic, operands_eq_zero_iff]
  exact ⟨fun _ _ _ h => answersWith_csrOf h fun _ => rfl,
    fun _ _ _ h => answersWith_writableCsrOf h fun _ => rfl,
    fun _ _ _ h => answersWith_writableCsrOf h fun _ => rfl⟩

theorem answersWith_of_hits_arithRows :
    ∀ r ∈ arithRows, r.hits w = true → AnswersWith r.mnemonic (decode w) := by
  simp only [arithRows, BitVec.ofNat_eq_ofNat, List.mem_cons, List.not_mem_nil, or_false, hits_iff,
    RowConstraint.holds, and_imp, forall_eq_or_imp, opF_ofNat, Nat.reducePow, Nat.reduceMod, Nat.reduceDiv,
    Nat.mod_succ, opF_and_ones, rdF_ofNat, Nat.and_zero, raF_ofNat, raF_and_ones, immF_ofNat, pow_zero,
    Nat.div_one, forall_const, immF_and_ones, immF_eq_zero_iff, immF_and_low_twelve_eq_zero_iff,
    rdF_and_ones, immF_and_low_byte, forall_eq]
  simp +contextual [decode, unused, Instr.mnemonic]

theorem answersWith_of_hits_bitRows :
    ∀ r ∈ bitRows, r.hits w = true → AnswersWith r.mnemonic (decode w) := by
  simp only [bitRows, BitVec.ofNat_eq_ofNat, List.mem_cons, List.not_mem_nil, or_false, hits_iff,
    RowConstraint.holds, and_imp, forall_eq_or_imp, opF_ofNat, Nat.reducePow, Nat.reduceMod, Nat.reduceDiv,
    Nat.mod_succ, opF_and_ones, rdF_ofNat, Nat.and_zero, raF_ofNat, immF_ofNat, pow_zero, Nat.div_one,
    forall_const, immF_and_low_twelve_eq_zero_iff, immF_and_ones, immF_eq_zero_iff, rdF_and_ones,
    raF_and_ones, forall_eq]
  simp +contextual [decode, unused, Instr.mnemonic]

theorem answersWith_of_hits_keyRows :
    ∀ r ∈ keyRows, r.hits w = true → AnswersWith r.mnemonic (decode w) := by
  simp only [keyRows, BitVec.ofNat_eq_ofNat, List.mem_cons, List.not_mem_nil, or_false, hits_iff,
    RowConstraint.holds, and_imp, forall_eq_or_imp, opF_ofNat, Nat.reducePow, Nat.reduceMod, Nat.reduceDiv,
    Nat.mod_succ, opF_and_ones, rdF_ofNat, rdF_and_ones, raF_ofNat, Nat.and_zero, immF_ofNat, pow_zero,
    Nat.div_one, forall_const, raF_and_ones, decide_eq_true_eq, immF_and_ones, immF_eq_zero_iff, forall_eq]
  simp +contextual [decode, unused, Instr.mnemonic]
  exact ⟨fun _ _ _ h => answersWith_kregOf h fun _ => rfl, fun _ _ _ h => answersWith_kregOf h fun _ => rfl⟩

theorem answersWith_of_hits {r : OpcodeRow} (hr : r ∈ opcodeTable) (h : r.hits w = true) :
    AnswersWith r.mnemonic (decode w) := by
  simp only [opcodeTable, List.mem_append] at hr
  rcases hr with ((hr | hr) | hr) | hr
  · exact answersWith_of_hits_controlRows r hr h
  · exact answersWith_of_hits_arithRows r hr h
  · exact answersWith_of_hits_bitRows r hr h
  · exact answersWith_of_hits_keyRows r hr h

end

/-! ## The row of a command -/

/-- The rows stand in the order of the constructors, and a command's word has the fields its row asks
for. -/
theorem exists_hits_encode {i : Instr} (hwf : i.wf = true) :
    ∃ r, opcodeTable[i.ctorIdx]? = some r ∧ r.mnemonic = i.mnemonic ∧ r.hits (encode i) = true := by
  cases i
  all_goals refine ⟨_, rfl, rfl, (hits_iff _ _).2 ?_⟩
  case csrr rd c =>
    have := number_lt c
    simp (disch := omega) [encode, RowConstraint.holds, and_above_four_bits, Nat.le_of_lt_succ this]
  case kput j ra | kget rd j =>
    simp (disch := omega) [encode, RowConstraint.holds, and_above_four_bits, Nat.le_of_lt_succ j.isLt]
  case csrw c ra | csrwi c imm =>
    have hn := number_mem_of_cmdWritable hwf
    have : c.number < 8 := by omega
    simp (disch := omega) [encode, RowConstraint.holds, and_above_three_bits, and_fourth_bit, hn]
  case halt | nop => simp [encode, wordZ_eq_wordI, RowConstraint.holds]
  all_goals simp (disch := omega) [encode, RowConstraint.holds, immF_eq_zero_iff]

/-- No two rows have the same mnemonic. -/
theorem mnemonic_nodup : (opcodeTable.map OpcodeRow.mnemonic).Nodup := by decide +kernel

theorem row_eq_of_mnemonic_eq {r₁ r₂ : OpcodeRow} (h₁ : r₁ ∈ opcodeTable) (h₂ : r₂ ∈ opcodeTable)
    (h : r₁.mnemonic = r₂.mnemonic) : r₁ = r₂ := List.inj_on_of_nodup_map mnemonic_nodup h₁ h₂ h

theorem exists_hits_of_decode_ok {w : Word} {i : Instr} (h : decode w = .ok i) :
    ∃ r ∈ opcodeTable, r.mnemonic = i.mnemonic ∧ r.hits w = true := by
  obtain ⟨hwf, rfl⟩ := decode_faithful w i h
  obtain ⟨r, hr, hm, hh⟩ := exists_hits_encode hwf
  exact ⟨r, List.mem_of_getElem? hr, hm, hh⟩

/-- Settles O3: a matching row gives the decoder's answer its mnemonic, a decoded command has its row, and a
mnemonic has one row. -/
theorem opcodeTableReadsAsTheDecoder : Obligations.OpcodeTableReadsAsTheDecoder := by
  refine fun w => ⟨fun r hr => ⟨answersWith_of_hits hr, ?decoded⟩, ?unmatched, ?unique⟩
  case decoded =>
    rintro ⟨i, hi, hm⟩
    obtain ⟨r', hr', hm', hh⟩ := exists_hits_of_decode_ok hi
    rwa [row_eq_of_mnemonic_eq hr hr' (hm.symm.trans hm'.symm)]
  case unmatched =>
    intro hnone
    cases hw : decode w with
    | error e => exact ⟨e, rfl⟩
    | ok i =>
      obtain ⟨r, hr, -, hh⟩ := exists_hits_of_decode_ok hw
      exact absurd hh (by simp [hnone r hr])
  case unique =>
    intro r₁ hr₁ r₂ hr₂ h₁ h₂
    obtain ⟨i₁, hi₁, hm₁⟩ := answersWith_of_hits hr₁ h₁
    obtain ⟨i₂, hi₂, hm₂⟩ := answersWith_of_hits hr₂ h₂
    obtain rfl : i₁ = i₂ := Except.ok.inj (hi₁.symm.trans hi₂)
    exact row_eq_of_mnemonic_eq hr₁ hr₂ (hm₁.symm.trans hm₂)

end Sys2Proof
end

section
/-!
The retry loops of `PrimeGen` and `KeyGen` (44_prime.md R171, R175, 45_rsa.md R199): where in the draws of a
call the values it returns or holds were accepted; then O50.
-/

namespace Sys2Proof.Machine

variable {bits f p q : Nat} {w : Option Nat} {g h k : Rng}

/-- A pass that a `PrimeGen` returns from is reached by requests of the same call. -/
theorem primeGen_accepted {safe : Bool} (hp : primeGen bits safe f g = (some p, h)) :
    ∃ a, LeadsTo g a ∧ AcceptedPass bits safe p a h := by
  induction f generalizing g with
  | zero => cases hp
  | succ f ih =>
    have hlead := primePass_leadsTo bits safe g
    simp only [primeGen] at hp
    split at hp
    case h_1 c g₁ hpass =>
      cases hp
      exact ⟨g, leadsTo_refl g, primePass_accepted hpass⟩
    case h_2 g₁ hpass =>
      obtain ⟨a, ha, hacc⟩ := ih hp
      rw [hpass] at hlead
      exact ⟨a, hlead.trans ha, hacc⟩

/-! ## The first prime of a pair -/

theorem FirstPrime.of_leadsTo (hgh : LeadsTo g h) (hp : FirstPrime bits w p h k) :
    FirstPrime bits w p g k := by
  rcases hp with ⟨hw, hk⟩ | ⟨a, b, ha, hab, hb⟩
  · exact .inl ⟨hw, hgh.trans hk⟩
  · exact .inr ⟨a, b, hgh.trans ha, hab, hb⟩

/-- With no prime held on entry, the first prime was accepted in the call, whatever was held before. -/
theorem FirstPrime.of_none (hp : FirstPrime bits none p g h) : FirstPrime bits w p g h :=
  .inr (hp.resolve_left fun hnone => nomatch hnone.1)

/-- The pass that draws the first prime, and what the loop then makes of its result. -/
theorem FirstPrime.of_pass (hpass : primePass (bits / 2) false g = (w, h))
    (hp : FirstPrime bits w p h k) : FirstPrime bits none p g k := by
  obtain ⟨hlead, hacc⟩ := primePass_step hpass
  rcases hp with ⟨hw, hk⟩ | hp
  · exact .inr ⟨g, h, leadsTo_refl g, hacc p hw, hk⟩
  · exact .of_leadsTo hlead (.inr hp)

/-! ## The loop of `KeyGen` -/

theorem keyGen_more (hp : keyGen bits f w g = (.more (some p), h)) : FirstPrime bits w p g h := by
  induction f generalizing w g with
  | zero =>
    cases hp
    exact .inl ⟨rfl, leadsTo_refl _⟩
  | succ f ih =>
    cases w with
    | none => exact .of_pass rfl (ih hp)
    | some p₀ =>
      simp only [keyGen] at hp
      split at hp
      case h_1 hpass => exact .of_leadsTo (primePass_step hpass).1 (ih hp)
      case h_2 q g₁ hpass =>
        split at hp
        · cases hp
        · exact .of_leadsTo (primePass_step hpass).1 (.of_none (ih hp))

theorem keyGen_done (hp : keyGen bits f w g = (.done p q, k)) : keyPairOk bits p q = true ∧
    ∃ h, FirstPrime bits w p g h ∧ AcceptedPass (bits / 2) false q h k := by
  induction f generalizing w g with
  | zero => cases w <;> cases hp
  | succ f ih =>
    cases w with
    | none =>
      obtain ⟨hok, h, hfirst, hq⟩ := ih hp
      exact ⟨hok, h, .of_pass rfl hfirst, hq⟩
    | some p₀ =>
      simp only [keyGen] at hp
      split at hp
      case h_1 hpass =>
        obtain ⟨hok, h, hfirst, hq⟩ := ih hp
        exact ⟨hok, h, .of_leadsTo (primePass_step hpass).1 hfirst, hq⟩
      case h_2 q₀ g₁ hpass =>
        split at hp
        case isTrue hok =>
          cases hp
          exact ⟨hok, g, .inl ⟨rfl, leadsTo_refl g⟩, primePass_accepted hpass⟩
        case isFalse =>
          obtain ⟨hok, h, hfirst, hq⟩ := ih hp
          exact ⟨hok, h, .of_leadsTo (primePass_step hpass).1 (.of_none hfirst), hq⟩

theorem keyPairOk_iff : keyPairOk bits p q = true ↔
    Nat.size (p * q) = bits ∧ Int.gcd 65537 (((p : Int) - 1) * ((q : Int) - 1)) = 1 := by
  rw [keyPairOk, Bool.and_eq_true, decide_eq_true_eq, decide_eq_true_eq, natLen_eq_size, igcd,
    Nat.cast_eq_one]
  rfl

/-- Settles O50, by the lemmas on the two loops. -/
theorem generatedValuesKeepTheirPromises : Obligations.GeneratedValuesKeepTheirPromises := by
  refine ⟨fun bits f p safe g g' _ => primeGen_accepted,
    fun bits f w g g' _ _ => ⟨fun p => keyGen_more, fun p q hp => ?pair⟩⟩
  case pair =>
    obtain ⟨hok, hpair⟩ := keyGen_done hp
    obtain ⟨hsize, hgcd⟩ := keyPairOk_iff.1 hok
    exact ⟨hsize, hgcd, hpair⟩

end Sys2Proof.Machine
end

section
/-!
What a command changes, field by field: the frames of the registers, the flags, the control registers and
both memories, read off the cases of `Effect`; then O21 to O24.
-/

namespace Sys2Proof.Machine

variable {i : Instr} {s t : State}

theorem get_set {α : Type} {n : Nat} (xs : Vector α n) (i j : Fin n) (a : α) :
    (xs.set i a).get j = if i = j then a else xs.get j := by
  simp only [Vector.get_eq_getElem, Vector.getElem_set, Fin.ext_iff]

namespace Effect

theorem frame (h : Effect i s t) : t.cm = s.cm ∧ t.par = s.par ∧ t.launch = s.launch ∧
    t.host = s.host ∧ t.hostReply = s.hostReply ∧ t.freeReads = s.freeReads := by
  cases h
  case csr c v _ => cases c <;> exact ⟨rfl, rfl, rfl, rfl, rfl, rfl⟩
  all_goals exact ⟨rfl, rfl, rfl, rfl, rfl, rfl⟩

/-! ## The two register banks -/

theorem x_eq (h : Effect i s t) : t.x = s.x ∨
    ∃ rd v, destOf i = some rd ∧ Fits s v ∧ t.x = s.x.set rd (some v) := by
  cases h
  case csr c v _ => cases c <;> exact .inl rfl
  case wrote rd v hd hv => exact .inr ⟨rd, v, hd, hv, rfl⟩
  case primeDone rd imm g p hi hv =>
    exact .inr ⟨rd, p, by rcases hi with rfl | rfl <;> rfl, hv, rfl⟩
  all_goals exact .inl rfl

theorem k_eq (h : Effect i s t) : t.k = s.k ∨
    (∃ j ra v, i = .kput j ra ∧ Fits s v ∧ t.k = s.k.set j (some v)) ∨
    (∃ n p q d, i = .keygen n ∧ t.k = modKeyBank p q d ∧
      ∀ v, some v ∈ (modKeyBank p q d).toList → Fits s v) ∨
    (∃ n p q d dP dQ qInv, i = .keygenc n ∧ t.k = crtKeyBank p q d dP dQ qInv ∧
      ∀ v, some v ∈ (crtKeyBank p q d dP dQ qInv).toList → Fits s v) := by
  cases h
  case csr c v _ => cases c <;> exact .inl rfl
  case keyPut j ra v hi hv => exact .inr (.inl ⟨j, ra, v, hi, hv, rfl⟩)
  case modKeyDone n g p q d hi hv => exact .inr (.inr (.inl ⟨n, p, q, d, hi, rfl, hv⟩))
  case crtKeyDone n g p q d dP dQ qInv hi hv =>
    exact .inr (.inr (.inr ⟨n, p, q, d, dP, dQ, qInv, hi, rfl, hv⟩))
  all_goals exact .inl rfl

/-! ## The control registers -/

theorem flags_eq (h : Effect i s t) : t.flags = s.flags ∨
    (∃ ra rb z n, i = .cmp ra rb ∧ t.flags = packFlags s.flagT z n) ∨
    (∃ ra n b, (i = .testbit ra n ∨ i = .ptest ra n) ∧ t.flags = packFlags b s.flagZ s.flagN) ∨
    (∃ ra, i = .csrw .flags ra) ∨ ∃ v, i = .csrwi .flags v := by
  cases h
  case csr c v hi =>
    cases c
    case flags => exact .inr (.inr (.inr hi))
    all_goals exact .inl rfl
  case compared ra rb z n hi => exact .inr (.inl ⟨ra, rb, z, n, hi, rfl⟩)
  case tested ra imm b g hi => exact .inr (.inr (.inl ⟨ra, imm, b, hi.imp_left And.left, rfl⟩))
  all_goals exact .inl rfl

theorem ptr_eq (h : Effect i s t) :
    t.ptr = s.ptr ∨ (∃ ra, i = .csrw .ptr ra) ∨ ∃ v, i = .csrwi .ptr v := by
  cases h
  case csr c v hi =>
    cases c
    case ptr => exact .inr hi
    all_goals exact .inl rfl
  all_goals exact .inl rfl

theorem len_eq (h : Effect i s t) :
    t.len = s.len ∨ (∃ ra, i = .csrw .len ra) ∨ (∃ v, i = .csrwi .len v) ∨ ∃ ra, i = .enc ra := by
  cases h
  case csr c v hi =>
    cases c
    case len => exact .inr (hi.imp_right .inl)
    all_goals exact .inl rfl
  case encoded ra v hi _ _ => exact .inr (.inr (.inr ⟨ra, hi⟩))
  all_goals exact .inl rfl

theorem kform_eq (h : Effect i s t) : t.kform = s.kform ∨ (∃ ra, i = .csrw .kform ra) ∨
    (∃ v, i = .csrwi .kform v) ∨ ∃ n, i = .keygen n ∨ i = .keygenc n := by
  cases h
  case csr c v hi =>
    cases c
    case kform => exact .inr (hi.imp_right .inl)
    all_goals exact .inl rfl
  case modKeyDone n _ _ _ _ hi _ => exact .inr (.inr (.inr ⟨n, .inl hi⟩))
  case crtKeyDone n _ _ _ _ _ _ _ hi _ => exact .inr (.inr (.inr ⟨n, .inr hi⟩))
  all_goals exact .inl rfl

theorem ie_eq (h : Effect i s t) :
    t.ie = s.ie ∨ (∃ ra, i = .csrw .ie ra) ∨ ∃ v, i = .csrwi .ie v := by
  cases h
  case csr c v hi =>
    cases c
    case ie => exact .inr hi
    all_goals exact .inl rfl
  all_goals exact .inl rfl

theorem status_eq (h : Effect i s t) : t.status = s.status ∨ i = .halt ∨ t.status = .error := by
  cases h
  case fault | primeFault | keyFault => exact .inr (.inr rfl)
  case halted hi => exact .inr (.inl hi)
  case csr c v _ => cases c <;> exact .inl rfl
  all_goals exact .inl rfl

theorem faultRecord_eq (h : Effect i s t) :
    (t.ekind = s.ekind ∧ t.epc = s.epc) ∨ t.status = .error := by
  cases h
  case fault | primeFault | keyFault => exact .inr rfl
  case csr c v _ => cases c <;> exact .inl ⟨rfl, rfl⟩
  all_goals exact .inl ⟨rfl, rfl⟩

theorem rng_eq (h : Effect i s t) :
    t.rng = s.rng ∨ isGenerator i = true ∨ ∃ ra n, i = .ptest ra n := by
  cases h
  case csr c v _ => cases c <;> exact .inl rfl
  case tested ra imm b g hi =>
    exact hi.imp And.right fun hi => .inr ⟨ra, imm, hi⟩
  case primeWait hi | primeDone hi _ | primeFault hi _ =>
    exact .inr (.inl (by rcases hi with rfl | rfl <;> rfl))
  case keyWait hi _ _ | keyFault hi _ _ => exact .inr (.inl (by rcases hi with rfl | rfl <;> rfl))
  case modKeyDone hi _ | crtKeyDone hi _ => exact .inr (.inl (by rw [hi]; rfl))
  all_goals exact .inl rfl

/-! ## The two memories -/

theorem om_eq (h : Effect i s t) : t.om = s.om ∨ ∃ bs, t.om = (s.setOM s.ptr.toNat bs).om ∧
    s.ptr.toNat + bs.length ≤ s.par.omSize ∧
    ((∃ ra v, i = .enc ra ∧ s.x.get ra = some v ∧ bs.length = Nat.size v.toNat / 8 + 1) ∨
      ∃ ra, i = .i2osp ra ∧ bs.length = s.len.toNat) := by
  cases h
  case csr c v _ => cases c <;> exact .inl rfl
  case encoded ra v hi hx hb =>
    exact .inr ⟨_, rfl, hb, .inl ⟨ra, v, hi, hx, by rw [encOctets_eq_beBytes, beBytes_length]⟩⟩
  case stored ra v hi hx h0 hm hb =>
    have hlen := padded_length hm
    exact .inr ⟨_, rfl, hlen.symm ▸ hb, .inr ⟨ra, hi, hlen⟩⟩
  all_goals exact .inl rfl

theorem cmRead_eq (h : Effect i s t) (j : Nat) : t.cmRead j = s.cmRead j := by
  obtain ⟨hcm, -, hlaunch, -⟩ := h.frame
  rw [State.cmRead, State.cmRead, hcm, hlaunch]

end Effect

/-! ## The obligations -/

/-- Settles O21: `CMP` packs the old `T`, `TESTBIT` and `PTEST` the old `Z` and `N`. -/
theorem flagsHaveTheirWriters : Obligations.FlagsHaveTheirWriters := by
  intro i s t h hne
  rcases (exec_effect h).flags_eq with hf | ⟨ra, rb, z, n, hi, hf⟩ | ⟨ra, n, b, hi, hf⟩ | hi
  · exact absurd hf hne
  · rw [hf]
    exact .inl ⟨ra, rb, hi, (State.packFlags_getLsbD _ _ _).1⟩
  · rw [hf]
    exact .inr (.inl ⟨ra, n, hi, (State.packFlags_getLsbD _ _ _).2⟩)
  · exact .inr (.inr hi)

/-- The two key banks a generation installs: every register of a CRT key is set, and of a modulus key the
first four. -/
theorem le_of_modKeyBank_get_eq_none {p q : Nat} {d : Int} {j : KReg}
    (h : (modKeyBank p q d).get j = none) : 4 ≤ j := by
  fin_cases j
  iterate 4
    · cases h
  all_goals decide

theorem crtKeyBank_get_ne_none (p q : Nat) (d dP dQ qInv : Int) (j : KReg) :
    (crtKeyBank p q d dP dQ qInv).get j ≠ none := by
  fin_cases j <;> exact nofun

/-- Settles O22: a write sets one register; an installed bank un-sets what it leaves out. -/
theorem registersHaveTheirWriters : Obligations.RegistersHaveTheirWriters := by
  intro i s t h
  have heff := exec_effect h
  refine ⟨fun r hne => ?xWriter, fun r hset => ?xSet, fun j hne => ?kWriter, fun j hset hunset => ?kUnset⟩
  case xWriter =>
    rcases heff.x_eq with hx | ⟨rd, v, hd, -, hx⟩
    · exact absurd (by rw [hx]) hne
    · obtain rfl : rd = r := by
        by_contra hrd
        exact hne (by rw [hx, get_set, if_neg hrd])
      exact hd
  case xSet =>
    rcases heff.x_eq with hx | ⟨rd, v, -, -, hx⟩
    · rwa [hx]
    · rw [hx, get_set]
      split
      · exact nofun
      · exact hset
  case kWriter =>
    rcases heff.k_eq with hk | ⟨j', ra, v, hi, -, hk⟩ | ⟨n, _, _, _, hi, -⟩ | ⟨n, _, _, _, _, _, _, hi, -⟩
    · exact absurd (by rw [hk]) hne
    · obtain rfl : j' = j := by
        by_contra hj
        exact hne (by rw [hk, get_set, if_neg hj])
      exact .inl ⟨ra, hi⟩
    · exact .inr ⟨n, .inl hi⟩
    · exact .inr ⟨n, .inr hi⟩
  case kUnset =>
    rcases heff.k_eq with hk | ⟨j', ra, v, -, -, hk⟩ | ⟨n, p, q, d, hi, hk, -⟩ |
      ⟨n, p, q, d, dP, dQ, qInv, -, hk, -⟩
    · exact absurd (hk ▸ hunset) hset
    · rw [hk, get_set] at hunset
      split at hunset
      · cases hunset
      · exact absurd hunset hset
    · rw [hk] at hunset
      exact ⟨le_of_modKeyBank_get_eq_none hunset, n, hi⟩
    · rw [hk] at hunset
      exact absurd hunset (crtKeyBank_get_ne_none p q d dP dQ qInv j)

/-- Settles O23: each register's frame is one lemma about the cases of `Effect`. -/
theorem controlRegistersHaveTheirWriters : Obligations.ControlRegistersHaveTheirWriters := by
  intro i s t h
  have heff := exec_effect h
  obtain ⟨-, hpar, hlaunch, hhost, hreply, hfree⟩ := heff.frame
  exact ⟨heff.ptr_eq.resolve_left, heff.len_eq.resolve_left, heff.kform_eq.resolve_left,
    heff.ie_eq.resolve_left, heff.status_eq.resolve_left,
    fun hne => heff.faultRecord_eq.resolve_left fun heq => hne.elim (· heq.1) (· heq.2),
    heff.rng_eq.resolve_left, hpar, hlaunch, hhost, hreply, hfree⟩

/-- Settles O24: a byte outside the string stored reads as before. -/
theorem octetMemoryHasItsWriters : Obligations.OctetMemoryHasItsWriters := by
  intro i s t h a hne
  have heff := exec_effect h
  have hlaunch := heff.frame.2.2.1
  rcases heff.om_eq with hom | ⟨bs, hom, -, hi⟩
  · exact absurd (State.omRead_congr hom hlaunch a) hne
  · have hin : s.ptr.toNat ≤ a ∧ a < s.ptr.toNat + bs.length := by
      by_contra hout
      refine hne ((State.omRead_congr hom hlaunch a).trans (State.omRead_setOM_outside s _ a bs ?_))
      omega
    refine ⟨hin.1, ?_⟩
    rcases hi with ⟨ra, v, hi, hx, hlen⟩ | ⟨ra, hi, hlen⟩
    · exact .inl ⟨ra, v, hi, hx, hlen ▸ hin.2⟩
    · exact .inr ⟨ra, hi, hlen ▸ hin.2⟩

end Sys2Proof.Machine
end

section
/-!
How a command ends while the engine runs (46_control.md R215, R224, 60_exceptions.md R242): in a fault, in
`HALT`, with `pc` at a branch's choice or one further, or still in progress; then O14, O17 and O18.
-/

namespace Sys2Proof.Machine

variable {i : Instr} {s t : State}

/-- What `STATUS`, `pc` and the fault record are after command `i`, and where nothing else may have changed,
the whole state. -/
inductive Ending (i : Instr) (s t : State) : Prop
  | fault (K : FaultKind) (hK : MayRaise i s K)
      (ht : t = { s with ekind := some K, epc := s.pc, status := .error, rng := t.rng, work := t.work })
      (hg : isGenerator i = false → t.rng = s.rng ∧ t.work = s.work)
  | halted (hi : i = .halt) (ht : t = { s with status := .done })
  | branched (a : Imm) (c : Bool) (hi : branchOutcome s i = some (a, c))
      (ht : t = { s with pc := if c then a else s.pc + 1 })
  | completed (hi : i ≠ .halt) (hb : branchOutcome s i = none) (hpc : t.pc = s.pc + 1)
      (hstatus : t.status = s.status) (hekind : t.ekind = s.ekind) (hepc : t.epc = s.epc)
  | waiting (hg : isGenerator i = true) (ht : t = { s with rng := t.rng, work := t.work })

theorem branchOutcome_of_destOf {rd : XReg} (h : destOf i = some rd) : branchOutcome s i = none := by
  cases i with
  | br a | bt a | bf a | beq a | bne a | blt a | bge a => cases h
  | _ => rfl

theorem isGenerator_of_prime {rd : XReg} {n : Imm} (h : i = .pgen rd n ∨ i = .pgens rd n) :
    isGenerator i = true := by rcases h with rfl | rfl <;> rfl

theorem isGenerator_of_key {n : Imm} (h : i = .keygen n ∨ i = .keygenc n) : isGenerator i = true := by
  rcases h with rfl | rfl <;> rfl

theorem Effect.ending (h : Effect i s t) : Ending i s t := by
  cases h
  case fault K hK => exact .fault K hK rfl fun _ => ⟨rfl, rfl⟩
  case primeFault hi hc =>
    exact .fault .capacityFault hc rfl fun hg => absurd (isGenerator_of_prime hi) (by simp [hg])
  case keyFault K hi hb hK =>
    refine .fault K ?_ rfl fun hg => absurd (isGenerator_of_key hi) (by simp [hg])
    rcases hK with rfl | ⟨rfl, hc⟩
    · rcases hi with rfl | rfl <;> rfl
    · exact hc
  case halted hi => exact .halted hi rfl
  case branched a c hi => exact .branched a c hi rfl
  case primeWait hi => exact .waiting (isGenerator_of_prime hi) rfl
  case keyWait hi _ _ => exact .waiting (isGenerator_of_key hi) rfl
  case wrote rd v hd hv =>
    exact .completed (by rintro rfl; cases hd) (branchOutcome_of_destOf hd) rfl rfl rfl rfl
  case csr c v hi =>
    obtain ⟨ra, rfl⟩ | ⟨n, rfl⟩ := hi <;> cases c <;> exact .completed nofun rfl rfl rfl rfl rfl
  case tested hi =>
    obtain ⟨rfl, -⟩ | rfl := hi <;> exact .completed nofun rfl rfl rfl rfl rfl
  case primeDone hi _ =>
    obtain rfl | rfl := hi <;> exact .completed nofun rfl rfl rfl rfl rfl
  case passed hi | compared hi | encoded hi _ _ | stored hi _ _ _ _ | keyPut hi _ | modKeyDone hi _ |
      crtKeyDone hi _ =>
    subst hi
    exact .completed nofun rfl rfl rfl rfl rfl

/-- While the engine runs, `STATUS` is `ERROR` afterwards exactly when the command took a fault. -/
theorem Ending.fault_of_error (h : Ending i s t) (hr : s.status = .running) (ht : t.status = .error) :
    ∃ K, MayRaise i s K ∧
      t = { s with ekind := some K, epc := s.pc, status := .error, rng := t.rng, work := t.work } ∧
      (isGenerator i = false → t.rng = s.rng ∧ t.work = s.work) := by
  cases h with
  | fault K hK ht hg => exact ⟨K, hK, ht, hg⟩
  | halted hi ht' => rw [ht'] at ht; cases ht
  | branched a c hi ht' => rw [ht'] at ht; exact absurd (hr.symm.trans ht) nofun
  | completed hi hb hpc hstatus hekind hepc => exact absurd (hr.symm.trans (hstatus.symm.trans ht)) nofun
  | waiting hg ht' => rw [ht'] at ht; exact absurd (hr.symm.trans ht) nofun

/-- Settles O17: the only ending in `ERROR` is the fault. -/
theorem faultsArePrecise : Obligations.FaultsArePrecise := by
  intro i s t hr h herr
  obtain ⟨K, -, ht, hg⟩ := (exec_effect h).ending.fault_of_error hr herr
  exact ⟨⟨K, ht⟩, hg⟩

/-- Settles O18: `MayRaise` is the table of the kinds. -/
theorem faultKindsByCommand : Obligations.FaultKindsByCommand := by
  intro i s t K hr h herr hkind
  obtain ⟨K', hK, ht, -⟩ := (exec_effect h).ending.fault_of_error hr herr
  have hKK : some K' = some K := by rw [← hkind, ht]
  obtain rfl := Option.some.inj hKK
  cases K' <;> exact hK

/-- `pc` does not wrap inside command memory (10_state.md R24; log 14). -/
theorem toNat_pc_add_one (hwf : s.par.wf = true) (hpc : s.pc.toNat < s.par.cmSize) :
    (s.pc + 1).toNat = s.pc.toNat + 1 := by
  simp only [Params.wf, Bool.and_eq_true, decide_eq_true_eq] at hwf
  bv_omega

/-! ### Branches -/

theorem branch_eq (s : State) (c : Bool) (a : Imm) :
    s.branch c a = .next { s with pc := if c then a else s.pc + 1 } := by
  cases c <;> rfl

theorem branch_not_eq (s : State) (c : Bool) (a : Imm) :
    s.branch (!c) a = .next { s with pc := if c then s.pc + 1 else a } := by
  cases c <;> rfl

theorem exec_of_branchOutcome {a : Imm} {c : Bool} (h : branchOutcome s i = some (a, c)) :
    exec i s = .next { s with pc := if c then a else s.pc + 1 } := by
  cases i <;> cases h <;> exact branch_eq s _ _

/-- Settles O26: each branch is `branch` on its own flag or on the flag's negation. -/
theorem branchesGoWhereTheirConditionSays : Obligations.BranchesGoWhereTheirConditionSays :=
  fun s a => ⟨branch_eq s true a, branch_eq s _ a, branch_not_eq s _ a, branch_eq s _ a,
    branch_not_eq s _ a, branch_eq s _ a, branch_not_eq s _ a⟩

/-! ### Where `pc` stands -/

/-- Settles O14: a branch does what its outcome says; another command stands where its way of ending puts
`pc`. -/
theorem pointerAfterACommand : Obligations.PointerAfterACommand := by
  intro i s t hwf hr hpc h
  have hnerr : s.status ≠ .error := by rw [hr]; exact nofun
  have hnext := toNat_pc_add_one hwf hpc
  cases hb : branchOutcome s i with
  | some o =>
    obtain ⟨a, c⟩ := o
    obtain rfl := Host.Outcome.next.inj ((exec_of_branchOutcome hb).symm.trans h)
    have hhalt : i ≠ .halt := by rintro rfl; cases hb
    refine ⟨fun hstop => (hstop.elim hnerr hhalt).elim, fun a' ha => ?taken, fun _ _ hnt => .inl ?notTaken⟩
    case taken => cases ha; rfl
    case notTaken =>
      cases c
      · exact hnext
      · exact absurd rfl (hnt a)
  | none =>
    refine ⟨fun hstop => ?stopped, nofun, fun herr hhalt _ => ?goesOn⟩
    case stopped =>
      cases (exec_effect h).ending with
      | fault K hK ht hg => rw [ht]
      | halted hi ht => rw [ht]
      | branched a c hi ht => rw [hb] at hi; cases hi
      | completed hi hb hpc hstatus => exact (hstop.elim (hstatus ▸ hnerr) hi).elim
      | waiting hg ht => rw [ht]
    case goesOn =>
      cases (exec_effect h).ending with
      | fault K hK ht hg => rw [ht] at herr; exact absurd rfl herr
      | halted hi ht => exact absurd hi hhalt
      | branched a c hi ht => rw [hb] at hi; cases hi
      | completed hi hb hpc hstatus => exact .inl (by rw [hpc, hnext])
      | waiting hg ht => exact .inr ⟨hg, ht⟩

end Sys2Proof.Machine
end

section
/-!
Every command answers a next state, since each of the operations it is made of does (70_reset_and_hazards.md
R275), O16; and a legal command with an unset source register takes `UnsetRegister`, since reading its
sources is the first thing it does (60_exceptions.md R239, R241), O19.
-/

namespace Sys2Proof.Machine

/-- The answer is a next state. -/
def Continues (a : Answer) : Prop := ∃ t, a = .next t

theorem continues_next (t : State) : Continues (.next t) := ⟨t, rfl⟩

namespace State

variable {s : State}

theorem continues_raise (K : FaultKind) : Continues (s.raise K) := continues_next _

theorem continues_readX {r : XReg} {f : Int → Answer} (h : ∀ v, Continues (f v)) :
    Continues (s.readX r f) := by
  unfold readX
  split
  · exact h _
  · exact continues_raise _

theorem continues_readK {j : KReg} {f : Int → Answer} (h : ∀ v, Continues (f v)) :
    Continues (s.readK j f) := by
  unfold readK
  split
  · exact h _
  · exact continues_raise _

theorem continues_check {b : Bool} {K : FaultKind} {a : Answer} (h : Continues a) :
    Continues (s.check b K a) := by
  cases b
  · exact h
  · exact continues_raise K

theorem continues_value {e : Except FaultKind Int} {f : Int → Answer} (h : ∀ v, Continues (f v)) :
    Continues (s.value e f) := by
  cases e with
  | ok v => exact h v
  | error K => exact continues_raise K

theorem continues_ite {c : Prop} [Decidable c] {a b : Answer} (ha : Continues a) (hb : Continues b) :
    Continues (if c then a else b) := by
  split
  · exact ha
  · exact hb

theorem continues_writeX (rd : XReg) (v : Int) : Continues (s.writeX rd v) :=
  continues_ite (continues_next _) (continues_raise _)

theorem continues_writeK (j : KReg) (v : Int) : Continues (s.writeK j v) :=
  continues_ite (continues_next _) (continues_raise _)

theorem continues_writeCsr (c : Csr) (mx : Nat) (v : Int) : Continues (s.writeCsr c mx v) :=
  continues_ite (continues_raise _) (continues_next _)

theorem continues_memRead {f : List Byte → Answer} (h : ∀ bs, Continues (f bs)) :
    Continues (s.memRead f) := continues_ite (continues_raise _) (h _)

theorem continues_memWrite {bs : List Byte} {f : State → Answer} (h : ∀ t, Continues (f t)) :
    Continues (s.memWrite bs f) := continues_ite (continues_raise _) (h _)

theorem continues_publicPower (K : FaultKind) (w : State → State) (rd ra : XReg) :
    Continues (publicPower K w rd ra s) :=
  continues_readX fun _ => continues_readK fun _ => continues_readK fun _ =>
    continues_check (continues_value fun _ => continues_writeX _ _)

theorem continues_rsaPriv (K : FaultKind) (rd ra : XReg) : Continues (rsaPriv K rd ra s) := by
  refine continues_readX fun c => ?_
  split
  · exact continues_raise _
  · exact continues_readK fun _ => continues_readK fun _ => continues_value fun _ =>
      continues_writeX _ _
  · exact continues_readK fun _ => continues_readK fun _ => continues_readK fun _ =>
      continues_readK fun _ => continues_readK fun _ => continues_readK fun _ =>
        continues_value fun _ => continues_writeX _ _

theorem continues_generatePrime (safe : Bool) (rd : XReg) (imm : Imm) :
    Continues (generatePrime safe rd imm s) := by
  refine continues_check ?_
  split
  · exact continues_next _
  · exact continues_writeX _ _

theorem continues_generateKey {install : Nat → Nat → State → Answer} (imm : Imm)
    (h : ∀ p q t, Continues (install p q t)) : Continues (generateKey imm install s) := by
  refine continues_check ?_
  split
  · exact continues_next _
  · exact h _ _ _

theorem continues_installKey (bank : Vector (Option Int) 9) (f : KForm) :
    Continues (installKey bank f s) := continues_ite (continues_next _) (continues_raise _)

end State

open State in
/-- Settles O16, command by command. -/
theorem everyCommandAnswersANextState : Obligations.EveryCommandAnswersANextState := by
  intro i s
  cases i with
  | halt | nop => exact continues_next _
  | br a | bt a | bf a | beq a | bne a | blt a | bge a => exact continues_next _
  | csrr rd c => exact continues_writeX _ _
  | csrw c ra =>
    refine show Continues (execCsrw c ra s) from ?_
    unfold execCsrw
    split
    · exact continues_raise _
    · exact continues_readX fun _ => continues_writeCsr _ _ _
  | csrwi c imm =>
    refine show Continues (execCsrwi c imm s) from ?_
    unfold execCsrwi
    split
    · exact continues_raise _
    · exact continues_writeCsr _ _ _
  | li rd imm => exact continues_writeX _ _
  | mov rd ra | pow rd ra imm | shl rd ra imm | shr rd ra imm | not rd ra | setbit rd ra imm
  | bitlen rd ra => exact continues_readX fun _ => continues_writeX _ _
  | add rd ra rb | sub rd ra rb | mul rd ra rb | gcd rd ra rb | and rd ra rb | or rd ra rb
  | xor rd ra rb => exact continues_readX fun _ => continues_readX fun _ => continues_writeX _ _
  | div rd ra rb | mod rd ra rb =>
    exact continues_readX fun _ => continues_readX fun _ => continues_check (continues_writeX _ _)
  | cmp ra rb => exact continues_readX fun _ => continues_readX fun _ => continues_next _
  | modpow rd ra rb rc =>
    exact continues_readX fun _ => continues_readX fun _ => continues_readX fun _ =>
      continues_value fun _ => continues_writeX _ _
  | modinv rd ra rb =>
    exact continues_readX fun _ => continues_readX fun _ => continues_value fun _ => continues_writeX _ _
  | montmul rd ra rb rc =>
    exact continues_readX fun _ => continues_readX fun _ => continues_readX fun _ =>
      continues_check (continues_check (continues_writeX _ _))
  | bmu rd ra => exact continues_readX fun _ => continues_check (continues_writeX _ _)
  | bred rd ra rb =>
    exact continues_readX fun _ => continues_readX fun _ =>
      continues_check (continues_check (continues_writeX _ _))
  | testbit ra imm => exact continues_readX fun _ => continues_next _
  | enc ra => exact continues_readX fun _ => continues_check (continues_memWrite fun _ => continues_next _)
  | dec rd | os2ip rd => exact continues_memRead fun _ => continues_writeX _ _
  | i2osp ra =>
    exact continues_readX fun _ => continues_check (continues_check
      (continues_memWrite fun _ => continues_next _))
  | ptest ra imm =>
    exact continues_readX fun _ => continues_check (continues_ite (continues_next _)
      (continues_ite (continues_next _) (continues_ite (continues_next _) (continues_next _))))
  | pgen rd imm | pgens rd imm => exact continues_generatePrime _ _ _
  | kput j ra => exact continues_readX fun _ => continues_writeK _ _
  | kget rd j => exact continues_readK fun _ => continues_writeX _ _
  | rsaep rd ra | rsavp1 rd ra => exact continues_publicPower _ _ _ _
  | rsadp rd ra | rsasp1 rd ra => exact continues_rsaPriv _ _ _
  | keygen imm =>
    exact continues_generateKey imm fun _ _ _ => continues_value fun _ => continues_installKey _ _
  | keygenc imm =>
    exact continues_generateKey imm fun _ _ _ => continues_value fun _ => continues_value fun _ =>
      continues_value fun _ => continues_value fun _ => continues_installKey _ _

/-! ## Unset sources -/

section
variable {s : State} {ra rb rc : XReg}

theorem readX_of_unset (h : ∃ r ∈ [ra], s.x.get r = none) (f : Int → Answer) :
    s.readX ra f = .next (faulted s .unsetRegister) := by
  obtain ⟨r, hr, hx⟩ := h
  obtain rfl := List.mem_singleton.1 hr
  exact State.readX_none hx f

/-- Reading one source, then the others: the fault is the same whichever of them is unset. -/
theorem readX_of_unset_cons {rs : List XReg} (h : ∃ r ∈ ra :: rs, s.x.get r = none)
    {f : Int → Answer} (hf : (∃ r ∈ rs, s.x.get r = none) →
      ∀ v, f v = .next (faulted s .unsetRegister)) :
    s.readX ra f = .next (faulted s .unsetRegister) := by
  cases hx : s.x.get ra with
  | none => exact State.readX_none hx f
  | some v =>
    rw [State.readX_some hx]
    refine hf ?_ v
    obtain ⟨r, hr, hnone⟩ := h
    rcases List.mem_cons.1 hr with rfl | hr
    · rw [hx] at hnone; cases hnone
    · exact ⟨r, hr, hnone⟩

theorem readX₂_of_unset (h : ∃ r ∈ [ra, rb], s.x.get r = none) (f : Int → Int → Answer) :
    (s.readX ra fun a => s.readX rb (f a)) = .next (faulted s .unsetRegister) :=
  readX_of_unset_cons h fun h _ => readX_of_unset h _

theorem readX₃_of_unset (h : ∃ r ∈ [ra, rb, rc], s.x.get r = none) (f : Int → Int → Int → Answer) :
    (s.readX ra fun a => s.readX rb fun b => s.readX rc (f a b)) =
      .next (faulted s .unsetRegister) :=
  readX_of_unset_cons h fun h _ => readX₂_of_unset h _

end

/-- Settles O19, by the number of sources; a legal `CSRW` has a bound, so it reads its source too. -/
theorem unsetSourcesFault : Obligations.UnsetSourcesFault := by
  intro i s hwf h
  cases i with
  | csrw c ra =>
    cases c with
    | status | ekind | epc | capbits | omsize | cmsize => cases hwf
    | flags | ptr | len | kform | ie => exact readX_of_unset h _
  | mov rd ra | pow rd ra imm | bmu rd ra | shl rd ra imm | shr rd ra imm | not rd ra | testbit ra imm
  | setbit rd ra imm | bitlen rd ra | enc ra | i2osp ra | ptest ra imm | kput j ra | rsaep rd ra
  | rsavp1 rd ra | rsadp rd ra | rsasp1 rd ra => exact readX_of_unset h _
  | add rd ra rb | sub rd ra rb | mul rd ra rb | div rd ra rb | mod rd ra rb | gcd rd ra rb | cmp ra rb
  | modinv rd ra rb | bred rd ra rb | and rd ra rb | or rd ra rb | xor rd ra rb =>
    exact readX₂_of_unset h _
  | modpow rd ra rb rc | montmul rd ra rb rc => exact readX₃_of_unset h _
  | halt | nop | br | bt | bf | beq | bne | blt | bge | csrr | csrwi | li | dec | os2ip | pgen | pgens
  | kget | keygen | keygenc => exact absurd h (by simp [sourcesOf])

end Sys2Proof.Machine
end

section
/-!
The step when a host move is pending (20_memory.md R60; log 6), and what each host move does in each state
(R61 to R66); then O5, O7, O9, O10.
-/

namespace Sys2Proof.Machine

variable {s t : State} {m : HostMove} {rest : List HostMove}

theorem step_of_host_wait (h : s.host = .wait :: rest) : step s = engineStep { s with host := rest } := by
  simp only [step, h]

theorem step_of_host_move (h : s.host = m :: rest) (hm : m ≠ .wait) :
    step s = State.hostMove { s with host := rest } m := by
  cases m with
  | wait => exact absurd rfl hm
  | _ => simp only [step, h]

/-- Settles O5: the fetch succeeds and the word decodes; the list of moves is no part of either. -/
theorem stepRunsTheDecodedCommand : Obligations.StepRunsTheDecodedCommand := by
  intro s i hr hpc hd
  refine ⟨fun hh => ?noMove, fun rest hh => ?wait⟩
  case noMove => rw [step_of_host_nil hh, engineStep_of_decode_ok hr (State.fetch_of_lt_cmSize hpc) hd]
  case wait =>
    rw [step_of_host_wait hh]
    exact engineStep_of_decode_ok hr (State.fetch_of_lt_cmSize hpc) hd

/-! ## The host's reads and writes -/

namespace State

variable {j : BitVec 16} {w : Word} {b : Byte}

theorem hostMove_writeCM (h : j.toNat < s.par.cmSize) :
    s.hostMove (.writeCM j w) = .next (s.hostWriteCM j.toNat w) := if_pos h
theorem hostMove_readCM (h : j.toNat < s.par.cmSize) :
    s.hostMove (.readCM j) = .next (s.hostReadCM j.toNat) := if_pos h
theorem hostMove_writeOM (h : j.toNat < s.par.omSize) :
    s.hostMove (.writeOM j b) = .next (s.hostWriteOM j.toNat b) := if_pos h
theorem hostMove_readOM (h : j.toNat < s.par.omSize) :
    s.hostMove (.readOM j) = .next (s.hostReadOM j.toNat) := if_pos h

theorem hostMove_writeCM_outside (h : s.par.cmSize ≤ j.toNat) :
    s.hostMove (.writeCM j w) = .fault .noSuchCell := if_neg h.not_gt
theorem hostMove_readCM_outside (h : s.par.cmSize ≤ j.toNat) :
    s.hostMove (.readCM j) = .fault .noSuchCell := if_neg h.not_gt
theorem hostMove_writeOM_outside (h : s.par.omSize ≤ j.toNat) :
    s.hostMove (.writeOM j b) = .fault .noSuchCell := if_neg h.not_gt
theorem hostMove_readOM_outside (h : s.par.omSize ≤ j.toNat) :
    s.hostMove (.readOM j) = .fault .noSuchCell := if_neg h.not_gt

theorem hostWriteCM_of_running (h : s.status = .running) (i : Nat) : s.hostWriteCM i w = s := if_pos h
theorem hostWriteCM_of_ne_running (h : s.status ≠ .running) (i : Nat) :
    s.hostWriteCM i w = s.setCM i w := if_neg h
theorem hostWriteOM_of_running (h : s.status = .running) (a : Nat) : s.hostWriteOM a b = s := if_pos h
theorem hostWriteOM_of_ne_running (h : s.status ≠ .running) (a : Nat) :
    s.hostWriteOM a b = s.setOM a [b] := if_neg h

theorem hostReadCM_of_running (h : s.status = .running) (i : Nat) :
    s.hostReadCM i = s.freeReply (Config.hostReadWord s.freeReads).toNat := if_pos h
theorem hostReadCM_of_ne_running (h : s.status ≠ .running) (i : Nat) :
    s.hostReadCM i = s.reply (s.cmRead i).toNat := if_neg h
theorem hostReadOM_of_running (h : s.status = .running) (a : Nat) :
    s.hostReadOM a = s.freeReply (Config.hostReadByte s.freeReads).toNat := if_pos h
theorem hostReadOM_of_ne_running (h : s.status ≠ .running) (a : Nat) :
    s.hostReadOM a = s.reply (s.omRead a).toNat := if_neg h

theorem omRead_setOM_singleton_self (a : Nat) : (s.setOM a [b]).omRead a = b :=
  omRead_setOM_inside s a 0 [b] Nat.zero_lt_one

theorem omRead_setOM_singleton_other {a c : Nat} (h : c ≠ a) : (s.setOM a [b]).omRead c = s.omRead c :=
  omRead_setOM_outside s a c [b] (by simp only [List.length_singleton]; omega)

end State

/-- Settles O7: the two memories' moves check their index, the other two are one field's update. -/
theorem hostMoveIsTheNextStep : Obligations.HostMoveIsTheNextStep :=
  ⟨fun _ _ _ => step_of_host_move,
    fun _ _ _ _ => ⟨fun h => ⟨State.hostMove_writeCM_outside h, State.hostMove_readCM_outside h⟩,
      fun h => ⟨State.hostMove_writeOM_outside h, State.hostMove_readOM_outside h⟩⟩,
    fun _ _ _ => ⟨rfl, rfl⟩⟩

/-- Settles O9: inside the memory each move is its rule for that value of `STATUS`. -/
theorem hostMemoryOperations : Obligations.HostMemoryOperations := by
  refine fun s j w b => ⟨fun hj => ⟨fun hr => ⟨?writeCM, ?readCM⟩, fun hr => ⟨?keepCM, ?freeCM⟩⟩,
    fun hj => ⟨fun hr => ⟨?writeOM, ?readOM⟩, fun hr => ⟨?keepOM, ?freeOM⟩⟩⟩
  case writeCM =>
    rw [State.hostMove_writeCM hj, State.hostWriteCM_of_ne_running hr]
    exact ⟨_, rfl, rfl, State.cmRead_setCM_self s _ w, fun k hk => State.cmRead_setCM_other s _ k w hk⟩
  case readCM =>
    rw [State.hostMove_readCM hj, State.hostReadCM_of_ne_running hr]
    rfl
  case keepCM => rw [State.hostMove_writeCM hj, State.hostWriteCM_of_running hr]
  case freeCM =>
    rw [State.hostMove_readCM hj, State.hostReadCM_of_running hr]
    exact ⟨_, rfl⟩
  case writeOM =>
    rw [State.hostMove_writeOM hj, State.hostWriteOM_of_ne_running hr]
    exact ⟨_, rfl, rfl, State.omRead_setOM_singleton_self _,
      fun k hk => State.omRead_setOM_singleton_other hk⟩
  case readOM =>
    rw [State.hostMove_readOM hj, State.hostReadOM_of_ne_running hr]
    rfl
  case keepOM => rw [State.hostMove_writeOM hj, State.hostWriteOM_of_running hr]
  case freeOM =>
    rw [State.hostMove_readOM hj, State.hostReadOM_of_running hr]
    exact ⟨_, rfl⟩

/-! ## Reset -/

theorem get_replicate_none (n : Nat) (i : Fin n) :
    (Vector.replicate n (none : Option Int)).get i = none := by
  rw [Vector.get_eq_getElem, Vector.getElem_replicate]

theorem resetTable_hostReset (s : State) : ResetTable s.hostReset :=
  ⟨get_replicate_none 16, get_replicate_none 9, rfl, rfl, rfl, rfl, rfl, rfl, rfl, rfl, rfl, rfl,
    fun _ => rfl, fun _ => rfl⟩

/-- Settles O10: both states have the same registers, and nothing written in their memories. -/
theorem resetGivesTheResetTable : Obligations.ResetGivesTheResetTable :=
  ⟨fun s => ⟨s.hostReset, rfl, resetTable_hostReset s, rfl, rfl, rfl⟩,
    get_replicate_none 16, get_replicate_none 9, rfl, rfl, rfl, rfl, rfl, rfl, rfl, rfl, rfl, rfl,
    fun _ => rfl, fun _ => rfl⟩

/-! ## What a host move can do -/

/-- What a host move that answers a next state makes of `s`. -/
inductive HostEffect (s : State) : HostMove → State → Prop
  /-- The engine is not disturbed: only `IE` and what the host has read may differ. -/
  | kept (m : HostMove) (t : State)
      (ht : t = { s with ie := t.ie, hostReply := t.hostReply, freeReads := t.freeReads }) : HostEffect s m t
  /-- A cell is written outside `RUNNING`. -/
  | wroteCM (i : BitVec 16) (w : Word) (hr : s.status ≠ .running) (hi : i.toNat < s.par.cmSize) :
      HostEffect s (.writeCM i w) (s.setCM i.toNat w)
  /-- A byte is written outside `RUNNING`. -/
  | wroteOM (a : BitVec 16) (b : Byte) (hr : s.status ≠ .running) (ha : a.toNat < s.par.omSize) :
      HostEffect s (.writeOM a b) (s.setOM a.toNat [b])
  /-- `HostStart` in `IDLE`. -/
  | started (e : BitVec 16) (hs : s.status = .idle) :
      HostEffect s (.start e) { s with pc := e, status := .running }
  /-- `HostClear` in `DONE` or `ERROR`. -/
  | cleared (hs : s.status = .done ∨ s.status = .error) :
      HostEffect s .clear { s with status := .idle, ekind := none, epc := 0 }
  /-- `HostReset`. -/
  | reset : HostEffect s .reset s.hostReset

theorem hostMove_effect (h : s.hostMove m = .next t) : HostEffect s m t := by
  rcases hostMove_next h with ⟨rfl, rfl⟩ | ⟨i, w, rfl, hi, rfl⟩ | ⟨i, rfl, -, rfl⟩ | ⟨a, b, rfl, ha, rfl⟩ |
    ⟨a, rfl, -, rfl⟩ | ⟨e, rfl, rfl⟩ | ⟨rfl, rfl⟩ | ⟨rfl, rfl⟩ | ⟨c, rfl, rfl⟩ | ⟨v, rfl, rfl⟩
  · exact .kept _ _ rfl
  · unfold State.hostWriteCM
    split
    · exact .kept _ _ rfl
    · next hr => exact .wroteCM i w hr hi
  · unfold State.hostReadCM
    split <;> exact .kept _ _ rfl
  · unfold State.hostWriteOM
    split
    · exact .kept _ _ rfl
    · next hr => exact .wroteOM a b hr ha
  · unfold State.hostReadOM
    split <;> exact .kept _ _ rfl
  · unfold State.hostStart
    split
    · next hs => exact .started e hs
    · exact .kept _ _ rfl
  · unfold State.hostClear
    split
    · next hs => exact .cleared (.inl hs)
    · next hs => exact .cleared (.inr hs)
    all_goals exact .kept _ _ rfl
  · exact .reset
  · exact .kept _ _ rfl
  · exact .kept _ _ rfl

end Sys2Proof.Machine
end

section
/-!
Rules of the whole machine that one step shows: who changes command memory (20_memory.md R53), O20, and who
changes `STATUS` (10_state.md R27), O15.
-/

namespace Sys2Proof.Machine

variable {s t : State}

/-! ## Command memory -/

theorem engineStep_cmRead (h : engineStep s = .next t) (j : Nat) : t.cmRead j = s.cmRead j := by
  rcases engineStep_next h with ⟨-, -, rfl⟩ | ⟨-, -, rfl⟩ | ⟨-, w, i, -, -, h⟩ | ⟨-, rfl⟩
  · rfl
  · rfl
  · exact (exec_effect h).cmRead_eq j
  · rfl

theorem hostMove_cmRead {m : HostMove} {j : Nat} (h : s.hostMove m = .next t)
    (hne : t.cmRead j ≠ s.cmRead j) : m = .reset ∨ (s.status ≠ .running ∧ ∃ j w, m = .writeCM j w) := by
  cases hostMove_effect h with
  | kept m t ht => rw [ht] at hne; exact absurd rfl hne
  | wroteCM i w hr hi => exact .inr ⟨hr, i, w, rfl⟩
  | wroteOM | started | cleared => exact absurd rfl hne
  | reset => exact .inl rfl

/-- Settles O20: neither a command nor the engine's step changes a cell, and of the host's moves two do. -/
theorem commandMemoryIsTheHosts : Obligations.CommandMemoryIsTheHosts := by
  refine ⟨fun i s t h => (exec_effect h).cmRead_eq, ?step⟩
  rintro s t h ⟨j, hne⟩
  rcases step_next h with ⟨-, h⟩ | ⟨rest, -, h⟩ | ⟨m, rest, hh, -, h⟩
  · exact absurd (engineStep_cmRead h j) hne
  · exact absurd (engineStep_cmRead h j) hne
  · exact ⟨m, rest, hh, hostMove_cmRead (s := { s with host := rest }) h hne⟩

/-! ## `STATUS` -/

theorem engineStep_status (h : engineStep s = .next t) (hne : t.status ≠ s.status) :
    s.status = .running ∧
      ((t.status = .done ∧ s.fetch = some (encode .halt)) ∨ (t.status = .error ∧ t.ekind ≠ none)) := by
  rcases engineStep_next h with ⟨hr, -, rfl⟩ | ⟨hr, -, rfl⟩ | ⟨hr, w, i, hf, hd, h⟩ | ⟨-, rfl⟩
  · exact ⟨hr, .inr ⟨rfl, nofun⟩⟩
  · exact ⟨hr, .inr ⟨rfl, nofun⟩⟩
  · refine ⟨hr, ?_⟩
    cases (exec_effect h).ending with
    | fault K hK ht hg => rw [ht]; exact .inr ⟨rfl, nofun⟩
    | halted hi ht =>
      subst hi
      exact .inl ⟨by rw [ht], by rw [hf, (decode_faithful w _ hd).2]⟩
    | branched a c hi ht => rw [ht] at hne; exact absurd rfl hne
    | completed hi hb hpc hstatus hekind hepc => exact absurd hstatus hne
    | waiting hg ht => rw [ht] at hne; exact absurd rfl hne
  · exact absurd rfl hne

theorem hostMove_status {m : HostMove} (h : s.hostMove m = .next t) (hne : t.status ≠ s.status) :
    (∃ e, m = .start e ∧ s.status = .idle ∧ t.status = .running) ∨
    (m = .clear ∧ (s.status = .done ∨ s.status = .error) ∧ t.status = .idle) ∨
    (m = .reset ∧ t.status = .idle) := by
  cases hostMove_effect h with
  | kept m t ht => rw [ht] at hne; exact absurd rfl hne
  | wroteCM | wroteOM => exact absurd rfl hne
  | started e hs => exact .inl ⟨e, rfl, hs, rfl⟩
  | cleared hs => exact .inr (.inl ⟨rfl, hs, rfl⟩)
  | reset => exact .inr (.inr ⟨rfl, rfl⟩)

/-- Settles O15: the engine's own changes and the host's, put together by whose step it is. -/
theorem statusTransitions : Obligations.StatusTransitions := by
  refine ⟨fun s t h hne => ?step, fun s => step_of_ne_running⟩
  rcases step_next h with ⟨hh, h⟩ | ⟨rest, hh, h⟩ | ⟨m, rest, hh, -, h⟩
  · exact .inr (.inr (.inr ⟨.inl hh, engineStep_status h hne⟩))
  · exact .inr (.inr (.inr ⟨.inr ⟨rest, hh⟩, engineStep_status (s := { s with host := rest }) h hne⟩))
  · rcases hostMove_status (s := { s with host := rest }) h hne with ⟨e, rfl, hs, ht⟩ | ⟨rfl, hs, ht⟩ | ⟨rfl, ht⟩
    · exact .inl ⟨e, rest, hh, hs, ht⟩
    · exact .inr (.inl ⟨rest, hh, hs, ht⟩)
    · exact .inr (.inr (.inl ⟨rest, hh, ht⟩))

end Sys2Proof.Machine
end

section
/-!
The machine's invariant: each of its four parts under a command that the running engine carries out, then
under every step; O12 and O13.
-/

namespace Sys2Proof.Machine

variable {i : Instr} {s t : State}

/-! ## A command -/

theorem memWf_congr (hpar : t.par = s.par) (hcm : t.cm = s.cm) (hom : t.om = s.om) :
    t.memWf = s.memWf := by rw [State.memWf, State.memWf, hpar, hcm, hom]

theorem Effect.memWf (h : Effect i s t) (hs : s.memWf = true) : t.memWf = true := by
  obtain ⟨hcm, hpar, -⟩ := h.frame
  rcases h.om_eq with hom | ⟨bs, hom, hb, -⟩
  · rwa [memWf_congr hpar hcm hom]
  · rw [memWf_congr (s := s.setOM s.ptr.toNat bs) hpar hcm hom]
    exact State.memWf_setOM s _ bs hs hb

theorem fits_congr (hpar : t.par = s.par) (v : Int) : Fits t v ↔ Fits s v := by
  rw [Fits, Fits, hpar]

/-- The registers fit again if every value is an old one or has been checked. -/
theorem RegistersFit.of_values (hs : RegistersFit s) (hpar : t.par = s.par)
    (hx : ∀ r v, t.x.get r = some v → s.x.get r = some v ∨ Fits s v)
    (hk : ∀ j v, t.k.get j = some v → s.k.get j = some v ∨ Fits s v) : RegistersFit t :=
  ⟨fun r v h => (fits_congr hpar v).2 ((hx r v h).elim (hs.1 r v) id),
    fun j v h => (fits_congr hpar v).2 ((hk j v h).elim (hs.2 j v) id)⟩

theorem get_set_some {n : Nat} {xs : Vector (Option Int) n} {r r' : Fin n} {v v' : Int}
    (h : (xs.set r (some v)).get r' = some v') : xs.get r' = some v' ∨ v' = v := by
  rw [get_set] at h
  split at h
  · exact .inr (Option.some.inj h).symm
  · exact .inl h

theorem mem_toList_of_get {n : Nat} {xs : Vector (Option Int) n} {j : Fin n} {o : Option Int}
    (h : xs.get j = o) : o ∈ xs.toList := by
  rw [← h, Vector.get_eq_getElem, Vector.mem_toList_iff]
  exact Vector.getElem_mem _

theorem Effect.registersFit (h : Effect i s t) (hs : RegistersFit s) : RegistersFit t := by
  refine hs.of_values h.frame.2.1 (fun r v hv => ?x) (fun j v hv => ?k)
  case x =>
    rcases h.x_eq with hx | ⟨rd, u, -, hu, hx⟩ <;> rw [hx] at hv
    · exact .inl hv
    · exact (get_set_some hv).imp_right fun he => by rwa [he]
  case k =>
    rcases h.k_eq with hk | ⟨j', ra, u, -, hu, hk⟩ | ⟨_, _, _, _, -, hk, hfit⟩ |
      ⟨_, _, _, _, _, _, _, -, hk, hfit⟩ <;> rw [hk] at hv
    · exact .inl hv
    · exact (get_set_some hv).imp_right fun he => by rwa [he]
    · exact .inr (hfit v (mem_toList_of_get hv))
    · exact .inr (hfit v (mem_toList_of_get hv))

/-- A recorded kind is one a command may raise, and `Encoding` is none (60_exceptions.md R237). -/
theorem Effect.faultRecordOk (h : Effect i s t) (hr : s.status = .running) (hs : FaultRecordOk s) :
    FaultRecordOk t := by
  have hnerr : s.status ≠ .error := by rw [hr]; exact nofun
  have hclear : t.status ≠ .error → t.ekind = none ∧ t.epc = 0 := fun hne => by
    obtain ⟨hekind, hepc⟩ := h.faultRecord_eq.resolve_right hne
    rw [hekind, hepc]
    exact hs.2 hnerr
  refine ⟨fun herr => ?_, hclear⟩
  obtain ⟨K, hK, ht, -⟩ := h.ending.fault_of_error hr herr
  exact ⟨K, by rw [ht], by rintro rfl; exact hK⟩

theorem Effect.work_eq (h : Effect i s t) (hi : ∀ n, i ≠ .keygen n ∧ i ≠ .keygenc n) : t.work = s.work := by
  cases h
  case csr c v _ => cases c <;> rfl
  case keyWait n _ _ hi' _ _ | keyFault n _ _ hi' _ _ =>
    exact (hi'.elim (hi n).1 (hi n).2).elim
  case modKeyDone n _ _ _ _ hi' _ => exact absurd hi' (hi n).1
  case crtKeyDone n _ _ _ _ _ _ _ hi' _ => exact absurd hi' (hi n).2
  all_goals rfl

/-- The prime a key generation still holds was accepted before, in this step or an earlier one. -/
theorem acceptedBefore_of_keyGen_more {bits f p : Nat} {w : Option Nat} {g h : Rng}
    (hw : ∀ p, w = some p → AcceptedBefore bits p g) (hp : keyGen bits f w g = (.more (some p), h)) :
    AcceptedBefore bits p h := by
  rcases keyGen_more hp with ⟨hp, hgh⟩ | ⟨a, b, -, hab, hbh⟩
  · obtain ⟨a, b, hab, hbg⟩ := hw p hp
    exact ⟨a, b, hab, hbg.trans hgh⟩
  · exact ⟨a, b, hab, hbh⟩

theorem WorkOk.of_none (h : t.work = none) : WorkOk t := fun _ hp => nomatch h.symm.trans hp

theorem WorkOk.none_of_ne_running (hs : WorkOk s) (hr : s.status ≠ .running) : s.work = none :=
  Option.eq_none_iff_forall_ne_some.2 fun p hp => hr (hs p hp).1

/-- A first prime held belongs to the command that `pc` points at. -/
theorem WorkOk.command {w : Word} {p : Nat} (hs : WorkOk s) (hf : s.fetch = some w)
    (hp : s.work = some p) : ∃ n, (decode w = .ok (.keygen n) ∨ decode w = .ok (.keygenc n)) ∧
      badKeyBits n.toNat = false ∧ AcceptedBefore n.toNat p s.rng := by
  obtain ⟨-, w', n, hf', hd, hb, hacc⟩ := hs p hp
  obtain rfl : w = w' := Option.some.inj (hf.symm.trans hf')
  exact ⟨n, hd, hb, hacc⟩

theorem key_imm_unique {m n : Imm} (hm : i = .keygen m ∨ i = .keygenc m)
    (hn : i = .keygen n ∨ i = .keygenc n) : m = n := by
  rcases hm with rfl | rfl <;> rcases hn with h | h <;> cases h <;> rfl

theorem exec_key_of_bad {n : Imm} (hi : i = .keygen n ∨ i = .keygenc n) (hb : badKeyBits n.toNat = true) :
    exec i s = .next (faulted s .badParameter) := by
  have hg : ∀ install, generateKey n install s = .next (faulted s .badParameter) := fun install => by
    rw [generateKey, hb, State.check_true]
  rcases hi with rfl | rfl
  · exact hg installModKey
  · exact hg installCrtKey

theorem workOk_exec {w : Word} (hr : s.status = .running) (hf : s.fetch = some w)
    (hd : decode w = .ok i) (hs : WorkOk s) (h : exec i s = .next t) : WorkOk t := by
  have hcmd : ∀ p, s.work = some p → ∃ n, (i = .keygen n ∨ i = .keygenc n) ∧
      badKeyBits n.toNat = false ∧ AcceptedBefore n.toNat p s.rng := fun p hp => by
    obtain ⟨n, hn, hb, hacc⟩ := hs.command hf hp
    rw [hd, Except.ok.injEq, Except.ok.injEq] at hn
    exact ⟨n, hn, hb, hacc⟩
  by_cases hkey : ∃ n, i = .keygen n ∨ i = .keygenc n
  case pos =>
    obtain ⟨n, hi⟩ := hkey
    cases hb : badKeyBits n.toNat with
    | true =>
      obtain rfl := Host.Outcome.next.inj ((exec_key_of_bad hi hb).symm.trans h)
      refine .of_none (Option.eq_none_iff_forall_ne_some.2 fun p hp => ?_)
      obtain ⟨m, hm, hb', -⟩ := hcmd p hp
      rw [key_imm_unique hm hi, hb] at hb'
      cases hb'
    | false =>
      rcases exec_keygen_work hi hb h with hnone | ⟨o, g, hg, rfl⟩
      · exact .of_none hnone
      · intro p hp
        obtain rfl : o = some p := hp
        have hd' : decode w = .ok (.keygen n) ∨ decode w = .ok (.keygenc n) :=
          hi.imp (fun he => by rw [hd, he]) fun he => by rw [hd, he]
        refine ⟨hr, w, n, hf, hd', hb, acceptedBefore_of_keyGen_more (fun p hp => ?_) hg⟩
        obtain ⟨m, hm, -, hacc⟩ := hcmd p hp
        rwa [key_imm_unique hm hi] at hacc
  case neg =>
    have hwork := (exec_effect h).work_eq fun n => not_or.1 fun hn => hkey ⟨n, hn⟩
    refine .of_none (hwork.trans (Option.eq_none_iff_forall_ne_some.2 fun p hp => hkey ?_))
    obtain ⟨n, hn, -⟩ := hcmd p hp
    exact ⟨n, hn⟩

/-! ## A step -/

theorem inv_faulted {K : FaultKind} (hs : Inv s) (hK : K ≠ .encoding) (hwork : s.work = none) :
    Inv (faulted s K) :=
  ⟨hs.1, hs.2.1, ⟨fun _ => ⟨K, rfl, hK⟩, fun hne => absurd rfl hne⟩, .of_none hwork⟩

theorem engineStep_inv (hs : Inv s) (h : engineStep s = .next t) : Inv t := by
  obtain ⟨hmem, hregs, hrecord, hwork⟩ := id hs
  rcases engineStep_next h with ⟨-, hf, rfl⟩ | ⟨-, ⟨w, e, hf, hd⟩, rfl⟩ | ⟨hr, w, i, hf, hd, h⟩ | ⟨-, rfl⟩
  · refine inv_faulted hs nofun (Option.eq_none_iff_forall_ne_some.2 fun p hp => ?_)
    obtain ⟨-, w, n, hf', -⟩ := hwork p hp
    cases hf.symm.trans hf'
  · refine inv_faulted hs nofun (Option.eq_none_iff_forall_ne_some.2 fun p hp => ?_)
    obtain ⟨n, hn, -⟩ := hwork.command hf hp
    rcases hn with hn | hn <;> cases hd.symm.trans hn
  · have heff := exec_effect h
    exact ⟨heff.memWf hmem, heff.registersFit hregs, heff.faultRecordOk hr hrecord,
      workOk_exec hr hf hd hwork h⟩
  · exact hs

theorem registersFit_of_unset (hx : ∀ r, s.x.get r = none) (hk : ∀ j, s.k.get j = none) :
    RegistersFit s :=
  ⟨fun r _ h => (nomatch (hx r).symm.trans h), fun j _ h => (nomatch (hk j).symm.trans h)⟩

theorem inv_hostReset (s : State) : Inv s.hostReset := by
  obtain ⟨hx, hk, -⟩ := resetTable_hostReset s
  exact ⟨rfl, registersFit_of_unset hx hk, ⟨nofun, fun _ => ⟨rfl, rfl⟩⟩, .of_none rfl⟩

theorem hostMove_inv {m : HostMove} (hs : Inv s) (h : s.hostMove m = .next t) : Inv t := by
  obtain ⟨hmem, hregs, hrecord, hwork⟩ := id hs
  cases hostMove_effect h with
  | kept m t ht => rw [ht]; exact hs
  | wroteCM i w hr hi =>
    exact ⟨State.memWf_setCM s _ w hmem hi, hregs, hrecord, .of_none (hwork.none_of_ne_running hr)⟩
  | wroteOM a b hr ha =>
    exact ⟨State.memWf_setOM s _ [b] hmem ha, hregs, hrecord, .of_none (hwork.none_of_ne_running hr)⟩
  | started e hidle =>
    have hr : s.status ≠ .running := by rw [hidle]; exact nofun
    have herr : s.status ≠ .error := by rw [hidle]; exact nofun
    exact ⟨hmem, hregs, ⟨nofun, fun _ => hrecord.2 herr⟩, .of_none (hwork.none_of_ne_running hr)⟩
  | cleared hstopped =>
    have hr : s.status ≠ .running := by rcases hstopped with h | h <;> rw [h] <;> exact nofun
    exact ⟨hmem, hregs, ⟨nofun, fun _ => ⟨rfl, rfl⟩⟩, .of_none (hwork.none_of_ne_running hr)⟩
  | reset => exact inv_hostReset s

/-- Settles O12: no register is set and nothing is written. -/
theorem resetMeetsTheInvariant : Obligations.ResetMeetsTheInvariant :=
  ⟨rfl, registersFit_of_unset (get_replicate_none 16) (get_replicate_none 9),
    ⟨nofun, fun _ => ⟨rfl, rfl⟩⟩, .of_none rfl⟩

/-- Settles O13: the list of host moves is no part of the invariant, the engine's step and every move keep
it. -/
theorem everyStepKeepsTheInvariant : Obligations.EveryStepKeepsTheInvariant := by
  intro s t hs h
  rcases step_next h with ⟨-, h⟩ | ⟨rest, -, h⟩ | ⟨m, rest, -, -, h⟩
  · exact engineStep_inv hs h
  · exact engineStep_inv (s := { s with host := rest }) hs h
  · exact hostMove_inv (s := { s with host := rest }) hs h

end Sys2Proof.Machine
end

section
/-!
Commands that read their sources and end in one write (40_arith.md, 42_bits.md, 45_rsa.md R187, R188): what
such a command does once its sources are set; then O29, O30, O31, O37, O38.
-/

namespace Sys2Proof.Machine

section
variable {i : Instr} {s : State} {rd ra rb rc : XReg} {a b c v : Int} {j : KReg}

theorem readX₂_some (ha : s.x.get ra = some a) (hb : s.x.get rb = some b) (f : Int → Int → Answer) :
    (s.readX ra fun a => s.readX rb (f a)) = f a b := by
  rw [State.readX_some ha, State.readX_some hb]

theorem readX₃_some (ha : s.x.get ra = some a) (hb : s.x.get rb = some b) (hc : s.x.get rc = some c)
    (f : Int → Int → Int → Answer) :
    (s.readX ra fun a => s.readX rb fun b => s.readX rc (f a b)) = f a b c := by
  rw [State.readX_some ha, readX₂_some hb hc]

theorem endsWriting_readX {f : Int → Int} (h : exec i s = s.readX ra fun a => s.writeX rd (f a))
    (ha : s.x.get ra = some a) : EndsWriting i s rd (f a) :=
  endsWriting_of_exec_eq_writeX (h.trans (State.readX_some ha _))

theorem endsWriting_readX₂ {f : Int → Int → Int}
    (h : exec i s = s.readX ra fun a => s.readX rb fun b => s.writeX rd (f a b))
    (ha : s.x.get ra = some a) (hb : s.x.get rb = some b) : EndsWriting i s rd (f a b) :=
  endsWriting_of_exec_eq_writeX (h.trans (readX₂_some ha hb fun a b => s.writeX rd (f a b)))

theorem faults_of_check {K : FaultKind} {bad : Prop} [Decidable bad] {r : Answer}
    (h : exec i s = s.check (decide bad) K r) (hbad : bad) : Faults i s K := by
  rw [Faults, h, decide_eq_true hbad, State.check_true]

theorem exec_eq_of_check {K : FaultKind} {bad : Prop} [Decidable bad] {r : Answer}
    (h : exec i s = s.check (decide bad) K r) (hbad : ¬ bad) : exec i s = r := by
  rw [h, decide_eq_false hbad, State.check_false]

theorem writeK_fits (h : Fits s v) : s.writeK j v = .next { s with k := s.k.set j (some v), pc := s.pc + 1 } :=
  if_pos ((fits_iff s v).2 h)

theorem writeK_not_fits (h : ¬ Fits s v) : s.writeK j v = .next (faulted s .capacityFault) :=
  if_neg (mt (fits_iff s v).1 h)

end

/-- Settles O29: each move reads its source, if it has one, and writes the value. -/
theorem moves : Obligations.Moves := by
  refine fun s rd ra j imm => ⟨endsWriting_of_exec_eq_writeX rfl, fun v hx => endsWriting_readX (f := id) rfl hx,
    fun v hx => ⟨fun hv => ?put, fun hv => ?tooBig⟩, fun v hk => ?get, fun hk => State.readK_none hk _⟩
  case put => exact (State.readX_some hx _).trans (writeK_fits hv)
  case tooBig => exact (State.readX_some hx _).trans (writeK_not_fits hv)
  case get => exact endsWriting_of_exec_eq_writeX (State.readK_some hk _)

/-! ## Integer arithmetic -/

theorem ipow_eq_pow (a : Int) (e : Nat) : ipow a e = a ^ e := by
  rw [ipow, Nat.cast_pow, Int.natCast_natAbs]
  split
  case isTrue h => rw [abs_of_neg h.1, (Nat.odd_iff.2 h.2).neg_pow, neg_neg]
  case isFalse h =>
    obtain ha | he : 0 ≤ a ∨ e % 2 = 0 := by omega
    · rw [abs_of_nonneg ha]
    · exact (Nat.even_iff.2 he).pow_abs a

/-- Settles O30: every result is the model's own operation; `GCD` and `POW` are the library's. -/
theorem exactArithmetic : Obligations.ExactArithmetic := by
  intro s rd ra rb a b imm ha hb
  refine ⟨endsWriting_readX₂ (f := (· + ·)) rfl ha hb, endsWriting_readX₂ (f := (· - ·)) rfl ha hb,
    endsWriting_readX₂ (f := (· * ·)) rfl ha hb, endsWriting_readX₂ (f := igcd) rfl ha hb, ?pow⟩
  case pow =>
    rw [← ipow_eq_pow]
    exact endsWriting_readX (f := fun a => ipow a imm.toNat) rfl ha

theorem mul_tdiv_nonneg (a b : Int) : 0 ≤ tdiv a b * (a * b) := by
  have hpos : ∀ {a b : Int}, 0 ≤ a → 0 ≤ b → 0 ≤ tdiv a b * (a * b) := fun ha hb =>
    mul_nonneg (Int.tdiv_nonneg ha hb) (mul_nonneg ha hb)
  rcases le_total 0 a with ha | ha <;> rcases le_total 0 b with hb | hb
  · exact hpos ha hb
  · simpa [tdiv] using hpos ha (neg_nonneg.2 hb)
  · simpa [tdiv] using hpos (neg_nonneg.2 ha) hb
  · simpa [tdiv] using hpos (neg_nonneg.2 ha) (neg_nonneg.2 hb)

theorem Fits.of_natAbs_le {s : State} {u v : Int} (hv : Fits s v) (h : u.natAbs ≤ v.natAbs) : Fits s u :=
  fun c hc => h.trans_lt (hv c hc)

/-- Settles O31: neither result is larger than a source, the dividend for `DIV` and the modulus for `MOD`. -/
theorem divisionAndResidue : Obligations.DivisionAndResidue := by
  intro s rd ra rb a b ha hb
  have hdiv : exec (.div rd ra rb) s = s.check (decide (b = 0)) .badParameter (s.writeX rd (tdiv a b)) :=
    readX₂_some ha hb _
  have hmod : exec (.mod rd ra rb) s = s.check (decide (b ≤ 0)) .badParameter (s.writeX rd (emod a b)) :=
    readX₂_some ha hb _
  refine ⟨faults_of_check hdiv, fun h0 => ?quotient, faults_of_check hmod, fun h0 => ?residue⟩
  case quotient =>
    have habs : (tdiv a b).natAbs = a.natAbs / b.natAbs := Int.natAbs_tdiv a b
    exact ⟨tdiv a b, habs, mul_tdiv_nonneg a b, endsWriting_of_exec_eq_writeX (exec_eq_of_check hdiv h0),
      fun hfit => (hfit.1 ra a ha).of_natAbs_le (habs ▸ Nat.div_le_self _ _)⟩
  case residue =>
    have hlow : 0 ≤ emod a b := Int.emod_nonneg a h0.ne'
    have hhigh : emod a b < b := Int.emod_lt_of_pos a h0
    exact ⟨emod a b, hlow, hhigh, Int.dvd_self_sub_emod,
      endsWriting_of_exec_eq_writeX (exec_eq_of_check hmod h0.not_ge),
      fun hfit => (hfit.1 rb b hb).of_natAbs_le (by omega)⟩

/-! ## Bit commands -/

theorem pow2_eq (n : Nat) : pow2 n = 2 ^ n := Nat.cast_pow 2 n

theorem maglen_eq_size {v : Int} (h : 0 ≤ v) : maglen v = Nat.size v.toNat := by
  have habs : v.natAbs = v.toNat := by omega
  rw [maglen, natLen_eq_size, habs]

/-- Settles O37: the model's functions in the library's words. -/
theorem shiftsAndBits : Obligations.ShiftsAndBits := by
  intro s rd ra a imm ha
  have hshl : shiftLeft a imm.toNat = a * 2 ^ imm.toNat := by rw [shiftLeft, pow2_eq]
  have hshr : shiftRight a imm.toNat = a / 2 ^ imm.toNat := by
    rw [shiftRight, fdiv, pow2_eq, Int.fdiv_eq_ediv_of_nonneg _ (by positivity)]
  have hset : setBit a imm.toNat = if a / 2 ^ imm.toNat % 2 = 1 then a else a + 2 ^ imm.toNat := by
    rw [setBit, bitAt_eq_ediv_emod, pow2_eq]
  have hlen : bitlen a = if 0 ≤ a then Nat.size a.toNat else Nat.size (-a - 1).toNat := by
    rw [bitlen]
    split
    · rw [maglen_eq_size ‹_›]
    · rw [maglen_eq_size (by omega)]
  rw [← hshl, ← hset, ← hshr, ← hlen]
  exact ⟨endsWriting_readX (f := fun a => shiftLeft a imm.toNat) rfl ha,
    endsWriting_readX (f := fun a => shiftRight a imm.toNat) rfl ha,
    endsWriting_readX (f := bitNot) rfl ha,
    endsWriting_readX (f := fun a => setBit a imm.toNat) rfl ha,
    endsWriting_readX (f := fun a => (bitlen a : Int)) rfl ha⟩

/-- Settles O38: the operations act bit by bit. -/
theorem bitwiseLogic : Obligations.BitwiseLogic := by
  intro s rd ra rb a b ha hb
  simp only [← bitAt_eq_ediv_emod]
  exact ⟨⟨bitAnd a b, bitAt_bitAnd a b, endsWriting_readX₂ (f := bitAnd) rfl ha hb⟩,
    ⟨bitOr a b, bitAt_bitOr a b, endsWriting_readX₂ (f := bitOr) rfl ha hb⟩,
    ⟨bitXor a b, bitAt_bitXor a b, endsWriting_readX₂ (f := bitXor) rfl ha hb⟩⟩

/-! ## Commands that write flags -/

theorem packFlags_T (t z n : Bool) : (packFlags t z n).getLsbD 0 = t := (State.packFlags_getLsbD t z n).1
theorem packFlags_Z (t z n : Bool) : (packFlags t z n).getLsbD 1 = z := (State.packFlags_getLsbD t z n).2.1
theorem packFlags_N (t z n : Bool) : (packFlags t z n).getLsbD 2 = n := (State.packFlags_getLsbD t z n).2.2

theorem endsSettingT_of_exec_eq {i : Instr} {s : State} {b : Bool} {g : Rng}
    (h : exec i s = .next ((s.setRng g).writeT b).advance) : EndsSettingT i s b g :=
  ⟨packFlags b s.flagZ s.flagN, packFlags_T _ _ _, packFlags_Z _ _ _, packFlags_N _ _ _, h⟩

/-- Settles O32: both pack the flags they do not compute from the old ones. -/
theorem compareAndTestBit : Obligations.CompareAndTestBit := by
  intro s ra rb a b imm ha hb
  refine ⟨⟨packFlags s.flagT (decide (a = b)) (decide (a < b)), packFlags_T _ _ _, packFlags_Z _ _ _,
    packFlags_N _ _ _, readX₂_some ha hb _⟩, ?testbit⟩
  case testbit =>
    rw [← bitAt_eq_ediv_emod]
    exact endsSettingT_of_exec_eq (State.readX_some ha _)

end Sys2Proof.Machine
end

section
/-!
The control and status registers as a command reads and writes them (46_control.md R220 to R222); then O27
and O28.
-/

namespace Sys2Proof.Machine

theorem toNat_flags (f : BitVec 3) :
    f.toNat = (f.getLsbD 0).toNat + 2 * (f.getLsbD 1).toNat + 4 * (f.getLsbD 2).toNat := by
  revert f; decide

/-- Settles O27: `CSRR` writes `csrValue`, which is the register's code. -/
theorem csrReads : Obligations.CsrReads := by
  refine ⟨fun s rd => ?reads, rfl, rfl, rfl⟩
  have hread : ∀ c v, s.csrValue c = v → EndsWriting (.csrr rd c) s rd (v : Nat) := by
    rintro c _ rfl
    exact endsWriting_of_exec_eq_writeX rfl
  exact ⟨hread .status _ rfl, hread .flags _ (toNat_flags s.flags), hread .ptr _ rfl, hread .len _ rfl,
    fun h => hread .ekind 0 (by rw [State.csrValue, h, ekindCode]),
    fun K h => hread .ekind _ (by rw [State.csrValue, h, ekindCode]), hread .epc _ rfl,
    hread .kform _ rfl, hread .ie _ rfl,
    fun h => hread .capbits 0 (by rw [State.csrValue, h, Option.getD_none]),
    fun c h => hread .capbits c (by rw [State.csrValue, h, Option.getD_some]),
    hread .omsize _ rfl, hread .cmsize _ rfl⟩

section
variable {i : Instr} {s : State} {c : Csr} {mx : Nat} {v : Int}

theorem ranged_of_exec_eq_writeCsr {stored : Prop} (h : exec i s = s.writeCsr c mx v)
    (hs : 0 ≤ v → v ≤ mx → exec i s = .next (s.setCsr c v.toNat).advance → stored) :
    Ranged i s v mx stored := by
  refine ⟨fun h0 hmx => hs h0 hmx (h.trans (if_neg ?_)), fun hout => h.trans (if_pos hout)⟩
  exact not_or.2 ⟨h0.not_gt, hmx.not_gt⟩

theorem toNat_ofNat_toNat {n : Nat} (h0 : 0 ≤ v) (h : v < 2 ^ n) :
    ((BitVec.ofNat n v.toNat).toNat : Int) = v := by
  rw [BitVec.toNat_ofNat, Nat.mod_eq_of_lt (by rw [Int.toNat_lt h0]; exact_mod_cast h),
    Int.toNat_of_nonneg h0]

theorem code_ofCode {n : Nat} (h : n ≤ 2) : (KForm.ofCode n).code = n := by
  interval_cases n <;> rfl

/-- A command that writes a CSR under its bound, or is illegal where it has none. -/
theorem writesCsr_of_exec (hw : ∀ mx, csrMax c = some mx → exec i s = s.writeCsr c mx v)
    (hi : csrMax c = none → Faults i s .illegalCommand) : WritesCsr i s v c := by
  cases c with
  | flags =>
    exact ranged_of_exec_eq_writeCsr (hw 7 rfl) fun h0 hmx h =>
      ⟨_, toNat_ofNat_toNat h0 (by omega), h⟩
  | ptr =>
    exact ranged_of_exec_eq_writeCsr (hw 65535 rfl) fun h0 hmx h =>
      ⟨_, toNat_ofNat_toNat h0 (by omega), h⟩
  | len =>
    exact ranged_of_exec_eq_writeCsr (hw 65535 rfl) fun h0 hmx h =>
      ⟨_, toNat_ofNat_toNat h0 (by omega), h⟩
  | ie =>
    exact ranged_of_exec_eq_writeCsr (hw 3 rfl) fun h0 hmx h =>
      ⟨_, toNat_ofNat_toNat h0 (by omega), h⟩
  | kform =>
    refine ranged_of_exec_eq_writeCsr (hw 2 rfl) fun h0 hmx h => ⟨KForm.ofCode v.toNat, ?_, h⟩
    rw [code_ofCode (by omega), Int.toNat_of_nonneg h0]
  | status | ekind | epc | capbits | omsize | cmsize => exact hi rfl

end

/-- Settles O28: both commands run `writeCsr` under the register's bound. -/
theorem csrWrites : Obligations.CsrWrites := by
  refine fun s c ra v imm => ⟨fun hx => writesCsr_of_exec (fun mx hmx => ?register) fun hnone => ?illegal,
    writesCsr_of_exec (fun mx hmx => ?immediate) fun hnone => ?illegalImmediate⟩
  case register =>
    show execCsrw c ra s = _
    rw [execCsrw, hmx]
    exact State.readX_some hx _
  case illegal =>
    show execCsrw c ra s = _
    rw [execCsrw, hnone, raise_eq]
  case immediate =>
    show execCsrwi c imm s = _
    rw [execCsrwi, hmx]
  case illegalImmediate =>
    show execCsrwi c imm s = _
    rw [execCsrwi, hnone, raise_eq]

end Sys2Proof.Machine
end

section
/-!
The modular commands (41_modular.md R112, R115, R119, R121, R122): the Montgomery product modulo an odd
number (R118) and what each command answers; then O33, O34, O35 and O36.
-/

namespace Sys2Proof.Machine

/-! ## The Montgomery product -/

section
variable {n a b c : Int}

theorem montRadix_eq (hn : 0 ≤ n) : montRadix n = 2 ^ Nat.size n.toNat := by
  rw [montRadix, pow2_eq, maglen_eq_size hn]

theorem montRadix_pos (n : Int) : 0 < montRadix n := by
  rw [montRadix, pow2_eq]
  positivity

theorem isCoprime_montRadix (hodd : n % 2 = 1) : IsCoprime (montRadix n) n := by
  rw [montRadix, pow2_eq]
  exact (Int.isCoprime_two_left.2 (Int.odd_iff.2 hodd)).pow_left

theorem montMul_nonneg (hn : 0 < n) (a b : Int) : 0 ≤ montMul a b n := Int.emod_nonneg _ hn.ne'

theorem montMul_lt (hn : 0 < n) (a b : Int) : montMul a b n < n := Int.emod_lt_of_pos _ hn

theorem montMul_mul_montRadix (hn : 0 < n) (hodd : n % 2 = 1) (a b : Int) :
    montMul a b n * montRadix n ≡ a * b [ZMOD n] := by
  obtain ⟨-, -, hinv⟩ := invMod_spec hn (Int.isCoprime_iff_gcd_eq_one.1 (isCoprime_montRadix hodd))
  calc montMul a b n * montRadix n
    _ ≡ a * b * invMod (montRadix n) n * montRadix n [ZMOD n] := (Int.mod_modEq _ n).mul_right _
    _ = a * b * (montRadix n * invMod (montRadix n) n) := by ring
    _ ≡ a * b * 1 [ZMOD n] := Int.ModEq.mul_left _ hinv
    _ = a * b := mul_one _

theorem modEq_of_mul_montRadix (hodd : n % 2 = 1) (h : a * montRadix n ≡ b * montRadix n [ZMOD n]) :
    a ≡ b [ZMOD n] := by
  rw [Int.modEq_iff_dvd, ← sub_mul] at h
  exact Int.modEq_iff_dvd.2 ((isCoprime_montRadix hodd).symm.dvd_of_dvd_mul_right h)

/-- The Montgomery product of `a` and `b` is `c` wherever `a * b` is `c` times the radix. -/
theorem montMul_modEq (hn : 0 < n) (hodd : n % 2 = 1) (h : a * b ≡ c * montRadix n [ZMOD n]) :
    montMul a b n ≡ c [ZMOD n] :=
  modEq_of_mul_montRadix hodd ((montMul_mul_montRadix hn hodd a b).trans h)

end

/-! ## The commands -/

/-- Settles O33: `MODPOW` ends by writing the value of `ModPow`. -/
theorem modularPower : Obligations.ModularPower := fun _ _ _ _ _ _ _ _ hb he hm =>
  endsWithPower_of_exec_eq_value (readX₃_some hb he hm _)

/-- Settles O34: `MODINV` ends by writing the value of `ModInverse`. -/
theorem modularInverse : Obligations.ModularInverse := by
  intro s rd ra rb a n ha hn
  have hexec : exec (.modinv rd ra rb) s = s.value (modInverse a n) fun v => s.writeX rd v :=
    readX₂_some ha hn _
  refine ⟨fun hbad => ?refused, fun hpos hgcd => ?answered⟩
  case refused => rw [Faults, hexec, modInverse_eq_error hbad, State.value_error]
  case answered =>
    obtain ⟨t, hlow, hhigh, hmul, hok⟩ := exists_modInverse_eq_ok hpos hgcd
    rw [hok, State.value_ok] at hexec
    exact ⟨t, hlow, hhigh, hmul, endsWriting_of_exec_eq_writeX hexec⟩

theorem bitAt_zero (v : Int) : bitAt v 0 = v % 2 := by rw [bitAt_eq_ediv_emod, pow_zero, Int.ediv_one]

/-- Settles O35: the two checks, then the Montgomery product. -/
theorem montgomeryProduct : Obligations.MontgomeryProduct := by
  intro s rd ra rb rc a b n ha hb hn
  have hexec : exec (.montmul rd ra rb rc) s =
      s.check (decide (n ≤ 0 ∨ n % 2 = 0)) .badParameter
        (s.check (decide (a < 0 ∨ n ≤ a ∨ b < 0 ∨ n ≤ b)) .badParameter (s.writeX rd (montMul a b n))) := by
    rw [← bitAt_zero]
    exact readX₃_some ha hb hn _
  refine ⟨fun hbad => ?refused, fun hpos hodd ha0 han hb0 hbn => ?answered⟩
  case refused =>
    by_cases hmod : n ≤ 0 ∨ n % 2 = 0
    · exact faults_of_check hexec hmod
    · exact faults_of_check (exec_eq_of_check hexec hmod) (by omega)
  case answered =>
    have hwrite := exec_eq_of_check (exec_eq_of_check hexec (by omega)) (by omega)
    refine ⟨montMul a b n, montMul_nonneg hpos a b, montMul_lt hpos a b, ?_,
      endsWriting_of_exec_eq_writeX hwrite⟩
    rw [← montRadix_eq hpos.le]
    exact montMul_mul_montRadix hpos hodd a b

theorem pow2_two_mul (n : Nat) : pow2 (2 * n) = 4 ^ n := by
  rw [pow2_eq, pow_mul]
  rfl

theorem barrettMu_eq {m : Int} (hm : 0 < m) : barrettMu m = 4 ^ Nat.size m.toNat / m := by
  rw [barrettMu, fdiv, Int.fdiv_eq_ediv_of_nonneg _ hm.le, pow2_two_mul, maglen_eq_size hm.le]

/-- Settles O36: the checks of each command, then its value. -/
theorem barrettConstantAndReduction : Obligations.BarrettConstantAndReduction := by
  intro s rd ra rb v m hv hm
  have hbmu : exec (.bmu rd rb) s = s.check (decide (m ≤ 0)) .badParameter (s.writeX rd (barrettMu m)) :=
    State.readX_some hm _
  have hbred : exec (.bred rd ra rb) s = s.check (decide (m ≤ 0)) .badParameter
      (s.check (decide (v < 0 ∨ pow2 (2 * maglen m) ≤ v)) .badParameter (s.writeX rd (emod v m))) :=
    readX₂_some hv hm _
  have hbound : 0 < m → pow2 (2 * maglen m) = 4 ^ Nat.size m.toNat := fun hpos => by
    rw [pow2_two_mul, maglen_eq_size hpos.le]
  refine ⟨faults_of_check hbmu, fun hpos => ?constant, fun hbad => ?refused, fun hpos h0 hlt => ?residue⟩
  case constant =>
    rw [← barrettMu_eq hpos]
    exact endsWriting_of_exec_eq_writeX (exec_eq_of_check hbmu hpos.not_ge)
  case refused =>
    obtain hm0 | hpos := le_or_gt m 0
    · exact faults_of_check hbred hm0
    · refine faults_of_check (exec_eq_of_check hbred hpos.not_ge) ?_
      rw [hbound hpos]
      exact hbad.resolve_left hpos.not_ge
  case residue =>
    refine endsWriting_of_exec_eq_writeX (exec_eq_of_check (exec_eq_of_check hbred hpos.not_ge) ?_)
    rw [hbound hpos]
    exact not_or.2 ⟨h0.not_gt, hlt.not_ge⟩

end Sys2Proof.Machine
end

section
/-!
How the modular units compute (41_modular.md R120, R123, R124): REDC, the Barrett estimate and the loop of
`ModPow` in Montgomery form give the values the commands write; then O57 and O58.
-/

namespace Sys2Proof.Machine

/-! ## REDC -/

section
variable {n t : Int}

theorem eq_of_modEq_of_lt {x y : Int} (h : x ≡ y [ZMOD n]) (hx : 0 ≤ x) (hxn : x < n) (hy : 0 ≤ y)
    (hyn : y < n) : x = y := by
  rwa [Int.ModEq, Int.emod_eq_of_lt hx hxn, Int.emod_eq_of_lt hy hyn] at h

/-- `q` of REDC (41_modular.md R120): the multiple of `n` that makes `t` a multiple of the radix. -/
def redcFactor (n t : Int) : Int :=
  emod (emod t (montRadix n) * emod (-(invMod n (montRadix n))) (montRadix n)) (montRadix n)

theorem redcFactor_nonneg (n t : Int) : 0 ≤ redcFactor n t := Int.emod_nonneg _ (montRadix_pos n).ne'

theorem redcFactor_lt (n t : Int) : redcFactor n t < montRadix n := Int.emod_lt_of_pos _ (montRadix_pos n)

theorem montRadix_dvd_add_redcFactor (hodd : n % 2 = 1) (t : Int) :
    montRadix n ∣ t + redcFactor n t * n := by
  obtain ⟨-, -, hinv⟩ := invMod_spec (montRadix_pos n)
    (Int.isCoprime_iff_gcd_eq_one.1 (isCoprime_montRadix hodd).symm)
  have hq : redcFactor n t ≡ t * -(invMod n (montRadix n)) [ZMOD montRadix n] :=
    (Int.mod_modEq _ _).trans ((Int.mod_modEq _ _).mul (Int.mod_modEq _ _))
  refine Int.modEq_zero_iff_dvd.1 ?_
  calc t + redcFactor n t * n
    _ ≡ t + t * -(invMod n (montRadix n)) * n [ZMOD montRadix n] := (hq.mul_right n).add_left t
    _ = t - t * (n * invMod n (montRadix n)) := by ring
    _ ≡ t - t * 1 [ZMOD montRadix n] := (Int.ModEq.mul_left t hinv).sub_left t
    _ = 0 := by ring

theorem redc_eq {a b : Int} (hodd : n % 2 = 1) : ∃ u, u * montRadix n = a * b + redcFactor n (a * b) * n ∧
    redc a b n = if n ≤ u then u - n else u := by
  refine ⟨fdiv (a * b + redcFactor n (a * b) * n) (montRadix n), ?_, rfl⟩
  rw [fdiv, Int.fdiv_eq_ediv_of_nonneg _ (montRadix_pos n).le]
  exact Int.ediv_mul_cancel (montRadix_dvd_add_redcFactor hodd _)

theorem lt_montRadix (hn : 0 < n) : n < montRadix n := by
  rw [montRadix_eq hn.le, ← Int.toNat_of_nonneg hn.le]
  exact_mod_cast Nat.lt_size_self n.toNat

theorem redc_eq_montMul {a b : Int} (hn : 0 < n) (hodd : n % 2 = 1) (ha : 0 ≤ a) (han : a < n) (hb : 0 ≤ b)
    (hbn : b < n) : redc a b n = montMul a b n := by
  obtain ⟨u, hu, hredc⟩ := redc_eq (a := a) (b := b) hodd
  have hR := montRadix_pos n
  have hnR := lt_montRadix hn
  have hq := redcFactor_nonneg n (a * b)
  have hqR := redcFactor_lt n (a * b)
  have hlow : 0 ≤ u := by
    refine nonneg_of_mul_nonneg_left (b := montRadix n) ?_ hR
    rw [hu]
    positivity
  have hhigh : u < 2 * n := by
    refine lt_of_mul_lt_mul_right (a := montRadix n) ?_ hR.le
    rw [hu]
    nlinarith
  have hmod : redc a b n ≡ u [ZMOD n] := by
    rw [hredc]
    split
    · exact Int.sub_modulus_modEq_iff.2 rfl
    · rfl
  have hmont : montMul a b n ≡ u [ZMOD n] := by
    refine montMul_modEq hn hodd ?_
    rw [hu]
    exact Int.modEq_add_mul_modulus_iff.2 rfl
  refine eq_of_modEq_of_lt (hmod.trans hmont.symm) ?_ ?_ (montMul_nonneg hn a b) (montMul_lt hn a b) <;>
    rw [hredc] <;> split <;> omega

end

/-! ## The Barrett estimate -/

theorem subtractWhile_eq {f : Nat} {r m : Int} (h0 : 0 ≤ r) (h : r < (f + 1) * m) :
    subtractWhile f r m = r % m := by
  induction f generalizing r with
  | zero => rw [subtractWhile, Int.emod_eq_of_lt h0 (by simpa using h)]
  | succ f ih =>
    rw [subtractWhile]
    split
    case isTrue hm =>
      rw [ih (by omega) (by push_cast at h; linarith), Int.sub_emod_right]
    case isFalse hm => rw [Int.emod_eq_of_lt h0 (by omega)]

/-- The estimate `((v / A) * (A * B / m)) / B` of `v / m`, for `v` below `A * B`, is too small by at most 2
where `A` is at most `m` (41_modular.md R123). -/
theorem barrett_estimate {v m A B : Int} (hm : 0 < m) (hA : 0 < A) (hB : 0 < B) (hAm : A ≤ m) (h0 : 0 ≤ v)
    (hv : v < A * B) : 0 ≤ v - v / A * (A * B / m) / B * m ∧
      v - v / A * (A * B / m) / B * m < 3 * m := by
  have hAB : 0 < A * B := mul_pos hA hB
  -- the error of the estimate, in terms of the three residues the divisions drop
  have herr : (v - v / A * (A * B / m) / B * m) * (A * B) =
      v * (A * B % m) + v % A * (m * (A * B / m)) + v / A * (A * B / m) % B * (m * A) := by
    have h1 := Int.mul_ediv_add_emod v A
    have h2 := Int.mul_ediv_add_emod (A * B) m
    have h3 := Int.mul_ediv_add_emod (v / A * (A * B / m)) B
    linear_combination (-(m * (A * B / m))) * h1 - v * h2 - m * A * h3
  have hr1 := Int.emod_nonneg v hA.ne'
  have hr2 := Int.emod_nonneg (A * B) hm.ne'
  have hr3 := Int.emod_nonneg (v / A * (A * B / m)) hB.ne'
  have hmu : 0 ≤ m * (A * B / m) := mul_nonneg hm.le (Int.ediv_nonneg hAB.le hm.le)
  constructor
  · refine nonneg_of_mul_nonneg_left (b := A * B) ?_ hAB
    rw [herr]
    exact add_nonneg (add_nonneg (mul_nonneg h0 hr2) (mul_nonneg hr1 hmu))
      (mul_nonneg hr3 (mul_pos hm hA).le)
  · refine lt_of_mul_lt_mul_right (a := A * B) ?_ hAB.le
    have hfirst : v * (A * B % m) < A * B * m :=
      (mul_le_mul_of_nonneg_left (Int.emod_lt_of_pos _ hm).le h0).trans_lt (mul_lt_mul_of_pos_right hv hm)
    have hsecond : v % A * (m * (A * B / m)) ≤ m * (A * B) :=
      mul_le_mul ((Int.emod_lt_of_pos v hA).le.trans hAm) (Int.mul_ediv_self_le hm.ne') hmu hm.le
    have hthird : v / A * (A * B / m) % B * (m * A) < B * (m * A) :=
      mul_lt_mul_of_pos_right (Int.emod_lt_of_pos _ hB) (mul_pos hm hA)
    rw [herr]
    linarith

theorem barrettReduce_eq_emod {v m : Int} (hm : 0 < m) (h0 : 0 ≤ v) (hv : v < 4 ^ Nat.size m.toNat) :
    barrettReduce v m = v % m := by
  obtain ⟨k, hk⟩ : ∃ k, Nat.size m.toNat = k + 1 :=
    Nat.exists_eq_succ_of_ne_zero (Nat.size_pos.2 (by omega)).ne'
  have hpow : (2 ^ k * 2 ^ (k + 2) : Int) = 4 ^ (k + 1) := by
    rw [← pow_add, show (4 : Int) = 2 ^ 2 from rfl, ← pow_mul]
    congr 1
    ring
  have hlow : (2 ^ k : Int) ≤ m := by
    rw [← Int.toNat_of_nonneg hm.le]
    exact_mod_cast Nat.lt_size.1 (hk.symm ▸ Nat.lt_succ_self k : k < Nat.size m.toNat)
  rw [hk, ← hpow] at hv
  obtain ⟨hest0, hest⟩ := barrett_estimate hm (pow_pos two_pos k) (pow_pos two_pos (k + 2)) hlow h0 hv
  have hmu : barrettMu m = 2 ^ k * 2 ^ (k + 2) / m := by rw [barrettMu_eq hm, hk, hpow]
  rw [barrettReduce, maglen_eq_size hm.le, hk, hmu]
  simp only [fdiv, pow2_eq, Nat.add_sub_cancel]
  rw [Int.fdiv_eq_ediv_of_nonneg v (by positivity), Int.fdiv_eq_ediv_of_nonneg _ (by positivity),
    subtractWhile_eq hest0 (by push_cast; linarith), Int.sub_mul_emod_self_right]

/-- Settles O57: both units give the one number in range of its residue class. -/
theorem unitsComputeTheirResults : Obligations.UnitsComputeTheirResults :=
  ⟨fun _ _ _ hn hodd ha han hb hbn => redc_eq_montMul hn hodd ha han hb hbn,
    fun _ _ hm h0 hv => barrettReduce_eq_emod hm h0 hv⟩

/-! ## The loop in Montgomery form -/

theorem modEq_of_eq {a b n : Int} (h : a = b) : a ≡ b [ZMOD n] := congrArg (· % n) h

/-- With `acc` and `r` the Montgomery forms of `A` and `B`, the loop ends in that of `A * B ^ e`. -/
theorem montPowLoop_modEq {m : Int} (hm : 0 < m) (hodd : m % 2 = 1) {f e : Nat} {acc r A B : Int}
    (he : e < 2 ^ f) (hacc : acc ≡ A * montRadix m [ZMOD m]) (hr : r ≡ B * montRadix m [ZMOD m]) :
    montPowLoop f m acc r e ≡ A * B ^ e * montRadix m [ZMOD m] := by
  have hmul : ∀ {x y X Y : Int}, x ≡ X * montRadix m [ZMOD m] → y ≡ Y * montRadix m [ZMOD m] →
      montMul x y m ≡ X * Y * montRadix m [ZMOD m] := fun {x y X Y} hx hy => by
    refine montMul_modEq hm hodd ((hx.mul hy).trans (modEq_of_eq ?_))
    ring
  induction f generalizing acc r e A B with
  | zero =>
    obtain rfl : e = 0 := Nat.lt_one_iff.1 he
    rwa [montPowLoop, pow_zero, mul_one]
  | succ f ih =>
    have hhalf : e / 2 < 2 ^ f := Nat.div_lt_of_lt_mul (by rwa [← pow_succ'])
    rw [montPowLoop]
    split_ifs with hzero hbit
    case pos => rwa [hzero, pow_zero, mul_one]
    case pos =>
      refine (ih hhalf (hmul hacc hr) (hmul hr hr)).trans (modEq_of_eq ?_)
      rw [← pow_two, ← pow_mul, mul_assoc A, ← pow_succ', show 2 * (e / 2) + 1 = e by omega]
    case neg =>
      refine (ih hhalf hacc (hmul hr hr)).trans (modEq_of_eq ?_)
      rw [← pow_two, ← pow_mul, show 2 * (e / 2) = e by omega]

/-- Settles O58: 1 and the base are brought to Montgomery form, and the product with 1 leaves it. -/
theorem montgomeryFormLoopIsModPow : Obligations.MontgomeryFormLoopIsModPow := by
  intro b m e hm hodd
  have hpos : 0 < m := zero_lt_one.trans hm
  have hinto : ∀ x : Int, montMul (emod x m) (emod (montRadix m * montRadix m) m) m ≡ x * montRadix m [ZMOD m] :=
    fun x => montMul_modEq hpos hodd (((Int.mod_modEq x m).mul (Int.mod_modEq _ m)).trans
      (modEq_of_eq (mul_assoc _ _ _).symm))
  have hloop := montPowLoop_modEq hpos hodd ((natLen_le_iff e _).1 le_rfl) (hinto 1) (hinto b)
  have hout : montPowMod b e m ≡ 1 * b ^ e [ZMOD m] :=
    montMul_modEq hpos hodd (by rw [mul_one]; exact hloop)
  rw [one_mul] at hout
  rw [powMod_eq hpos]
  exact eq_of_modEq_of_lt (hout.trans (Int.mod_modEq _ m).symm) (montMul_nonneg hpos _ _) (montMul_lt hpos _ _)
    (Int.emod_nonneg _ hpos.ne') (Int.emod_lt_of_pos _ hpos)

end Sys2Proof.Machine
end

section
/-!
`RSADP` and `RSASP1` (45_rsa.md R191 to R195, R197): what `rsaPriv` answers with no key, in the modulus form
and in the CRT form; then O53 and O54.
-/

namespace Sys2Proof.Machine

section
variable {i : Instr} {R : FaultKind} {s : State} {rd ra : XReg} {c n d p q dP dQ qInv : Int}

theorem rsaPriv_of_noKey (hx : s.x.get ra = some c) (hf : s.kform = .noKey) :
    rsaPriv R rd ra s = .next (faulted s .badParameter) := by
  rw [rsaPriv, State.readX_some hx, hf, raise_eq]

theorem rsaPriv_of_modKey (hx : s.x.get ra = some c) (hf : s.kform = .modKey) :
    rsaPriv R rd ra s = s.readK 2 fun n => s.readK 3 fun d =>
      s.value (rsaPrivMod n d c) fun v => s.writeX rd v := by
  rw [rsaPriv, State.readX_some hx, hf]

theorem rsaPriv_of_crtKey (hx : s.x.get ra = some c) (hf : s.kform = .crtKey) :
    rsaPriv R rd ra s = s.readK 2 fun n => s.readK 4 fun p => s.readK 5 fun q => s.readK 6 fun dP =>
      s.readK 7 fun dQ => s.readK 8 fun qInv =>
        s.value (rsaPrivCrt R n p q dP dQ qInv c) fun v => s.writeX rd v := by
  rw [rsaPriv, State.readX_some hx, hf]

/-- Reading one key register, then the others: the fault is the same whichever of them is unset. -/
theorem readK_of_unset_cons {j : KReg} {js : List KReg} (h : ∃ j' ∈ j :: js, s.k.get j' = none)
    {f : Int → Answer} (hf : (∃ j' ∈ js, s.k.get j' = none) →
      ∀ v, f v = .next (faulted s .unsetRegister)) :
    s.readK j f = .next (faulted s .unsetRegister) := by
  cases hk : s.k.get j with
  | none => exact State.readK_none hk f
  | some v =>
    rw [State.readK_some hk]
    refine hf ?_ v
    obtain ⟨j', hj', hnone⟩ := h
    rcases List.mem_cons.1 hj' with rfl | hj'
    · rw [hk] at hnone; cases hnone
    · exact ⟨j', hj', hnone⟩

theorem not_unset_nil : ¬ ∃ j ∈ ([] : List KReg), s.k.get j = none := by simp

theorem faults_modKey_of_unset (hi : exec i s = rsaPriv R rd ra s) (hx : s.x.get ra = some c)
    (hf : s.kform = .modKey) (h : ∃ j ∈ [2, 3], s.k.get j = none) : Faults i s .unsetRegister := by
  rw [Faults, hi, rsaPriv_of_modKey hx hf]
  exact readK_of_unset_cons h fun h _ => readK_of_unset_cons h fun h => absurd h not_unset_nil

theorem faults_crtKey_of_unset (hi : exec i s = rsaPriv R rd ra s) (hx : s.x.get ra = some c)
    (hf : s.kform = .crtKey) (h : ∃ j ∈ [2, 4, 5, 6, 7, 8], s.k.get j = none) :
    Faults i s .unsetRegister := by
  rw [Faults, hi, rsaPriv_of_crtKey hx hf]
  exact readK_of_unset_cons h fun h _ => readK_of_unset_cons h fun h _ => readK_of_unset_cons h fun h _ =>
    readK_of_unset_cons h fun h _ => readK_of_unset_cons h fun h _ => readK_of_unset_cons h fun h =>
      absurd h not_unset_nil

theorem exec_eq_of_modKey (hi : exec i s = rsaPriv R rd ra s) (hx : s.x.get ra = some c)
    (hf : s.kform = .modKey) (hn : s.k.get 2 = some n) (hd : s.k.get 3 = some d) :
    exec i s = s.value (rsaPrivMod n d c) fun v => s.writeX rd v := by
  rw [hi, rsaPriv_of_modKey hx hf, State.readK_some hn, State.readK_some hd]

theorem exec_eq_of_crtKey (hi : exec i s = rsaPriv R rd ra s) (hx : s.x.get ra = some c)
    (hf : s.kform = .crtKey) (hn : s.k.get 2 = some n) (hp : s.k.get 4 = some p) (hq : s.k.get 5 = some q)
    (hdP : s.k.get 6 = some dP) (hdQ : s.k.get 7 = some dQ) (hqInv : s.k.get 8 = some qInv) :
    exec i s = s.value (rsaPrivCrt R n p q dP dQ qInv c) fun v => s.writeX rd v := by
  rw [hi, rsaPriv_of_crtKey hx hf, State.readK_some hn, State.readK_some hp, State.readK_some hq,
    State.readK_some hdP, State.readK_some hdQ, State.readK_some hqInv]

/-! ## The values -/

theorem rsaPrivMod_outside (h : c < 0 ∨ n ≤ c) : rsaPrivMod n d c = .error .badParameter := if_pos h

theorem rsaPrivMod_inside (h0 : 0 ≤ c) (hn : c < n) : rsaPrivMod n d c = modPow c d n :=
  if_neg (not_or.2 ⟨h0.not_gt, hn.not_ge⟩)

theorem rsaPrivCrt_outside (h : c < 0 ∨ n ≤ c) : rsaPrivCrt R n p q dP dQ qInv c = .error R := if_pos h

theorem rsaPrivCrt_of_noPower (h0 : 0 ≤ c) (hn : c < n) (h : NoPower c dP p ∨ NoPower c dQ q) :
    rsaPrivCrt R n p q dP dQ qInv c = .error .badParameter := by
  rw [rsaPrivCrt, if_neg (not_or.2 ⟨h0.not_gt, hn.not_ge⟩)]
  by_cases hp : NoPower c dP p
  · rw [modPow_of_noPower hp]
  · obtain ⟨m1, -, hm1⟩ := exists_modPow_eq_ok hp
    rw [hm1, modPow_of_noPower (h.resolve_left hp)]

theorem rsaPrivCrt_inside {m1 m2 : Int} (h0 : 0 ≤ c) (hn : c < n) (h1 : modPow c dP p = .ok m1)
    (h2 : modPow c dQ q = .ok m2) :
    rsaPrivCrt R n p q dP dQ qInv c = .ok (crtCombine m1 m2 p q qInv) := by
  rw [rsaPrivCrt, if_neg (not_or.2 ⟨h0.not_gt, hn.not_ge⟩), h1, h2]

/-- The recombination needs no reduction (45_rsa.md R197). -/
theorem crtCombine_mem {m1 m2 : Int} (hp : 0 < p) (h0 : 0 ≤ m2) (hq : m2 < q) :
    0 ≤ crtCombine m1 m2 p q qInv ∧ crtCombine m1 m2 p q qInv ≤ p * q - 1 := by
  have hlow : 0 ≤ (m1 - m2) * qInv % p := Int.emod_nonneg _ hp.ne'
  have hhigh : (m1 - m2) * qInv % p < p := Int.emod_lt_of_pos _ hp
  have hq0 : 0 < q := h0.trans_lt hq
  change 0 ≤ m2 + q * ((m1 - m2) * qInv % p) ∧ m2 + q * ((m1 - m2) * qInv % p) ≤ p * q - 1
  constructor
  · positivity
  · nlinarith

end

/-! ## The obligations -/

theorem exec_rsadp_eq_rsaPriv (rd ra : XReg) (s : State) :
    exec (.rsadp rd ra) s = rsaPriv .decryption rd ra s := rfl

theorem exec_rsasp1_eq_rsaPriv (rd ra : XReg) (s : State) :
    exec (.rsasp1 rd ra) s = rsaPriv .badParameter rd ra s := rfl

/-- Settles O53: both commands run `rsaPriv`, whose range kind the modulus form does not use. -/
theorem privateKeyModulusForm : Obligations.PrivateKeyModulusForm := by
  intro s rd ra c i hi hx
  obtain ⟨R, hexec⟩ : ∃ R, exec i s = rsaPriv R rd ra s := by
    rcases hi with rfl | rfl
    · exact ⟨_, exec_rsadp_eq_rsaPriv rd ra s⟩
    · exact ⟨_, exec_rsasp1_eq_rsaPriv rd ra s⟩
  refine ⟨fun hf => hexec.trans (rsaPriv_of_noKey hx hf), fun hf hunset => ?unset, fun n d hf hn hd =>
    ⟨fun hout => ?outside, fun h0 hlt => ?inside⟩⟩
  case unset => exact faults_modKey_of_unset hexec hx hf (by simpa using hunset)
  case outside =>
    rw [Faults, exec_eq_of_modKey hexec hx hf hn hd, rsaPrivMod_outside hout, State.value_error]
  case inside =>
    refine endsWithPower_of_exec_eq_value ?_
    rw [exec_eq_of_modKey hexec hx hf hn hd, rsaPrivMod_inside h0 hlt]

/-- Settles O54: as for the modulus form; the two powers are those of `ModPow`. -/
theorem privateKeyCrtForm : Obligations.PrivateKeyCrtForm := by
  intro s rd ra c i R hi hx hf
  have hexec : exec i s = rsaPriv R rd ra s := by
    rcases hi with ⟨rfl, rfl⟩ | ⟨rfl, rfl⟩
    · exact exec_rsadp_eq_rsaPriv rd ra s
    · exact exec_rsasp1_eq_rsaPriv rd ra s
  refine ⟨faults_crtKey_of_unset hexec hx hf, fun n p q dP dQ qInv hn hp hq hdP hdQ hqInv => ?_⟩
  have hval := exec_eq_of_crtKey hexec hx hf hn hp hq hdP hdQ hqInv
  refine ⟨fun hout => ?outside, fun h0 hlt hno => ?noPower, fun h0 hlt h1 h2 => ?inside⟩
  case outside => rw [Faults, hval, rsaPrivCrt_outside hout, State.value_error]
  case noPower => rw [Faults, hval, rsaPrivCrt_of_noPower h0 hlt hno, State.value_error]
  case inside =>
    obtain ⟨m1, hm1, heq1⟩ := exists_modPow_eq_ok h1
    obtain ⟨m2, hm2, heq2⟩ := exists_modPow_eq_ok h2
    have hp0 : 0 < p := not_le.1 fun hle => h1 (.inl hle)
    obtain ⟨hlow, hhigh⟩ := crtCombine_mem (m1 := m1) (qInv := qInv) hp0 hm2.1 hm2.2.1
    rw [rsaPrivCrt_inside h0 hlt heq1 heq2, State.value_ok] at hval
    exact ⟨m1, m2, _, hm1, hm2, rfl, hlow, hhigh, endsWriting_of_exec_eq_writeX hval⟩

end Sys2Proof.Machine
end

section
/-!
The two forms of a key, and the round trip (45_rsa.md R198, R202): a power modulo a prime depends on the
exponent modulo `p - 1` only; then O59 and O60.
-/

namespace Sys2Proof.Machine

/-! ## Powers modulo a product of two primes -/

section
variable {p q a b : Nat} {c x y : Int}

/-- Fermat's theorem for two positive exponents; the base need not be a unit. -/
theorem pow_modEq_of_modEq_sub_one (hp : p.Prime) (ha : 0 < a) (hb : 0 < b) (h : a ≡ b [MOD p - 1])
    (c : Int) : c ^ a ≡ c ^ b [ZMOD p] := by
  have : Fact p.Prime := ⟨hp⟩
  rw [← ZMod.intCast_eq_intCast_iff, Int.cast_pow, Int.cast_pow]
  obtain h0 | h0 := eq_or_ne (c : ZMod p) 0
  · rw [h0, zero_pow ha.ne', zero_pow hb.ne']
  · exact pow_eq_pow_of_modEq h (ZMod.pow_card_sub_one_eq_one h0)

theorem modEq_mul_of_primes (hp : p.Prime) (hq : q.Prime) (hpq : p ≠ q) (h₁ : x ≡ y [ZMOD p])
    (h₂ : x ≡ y [ZMOD q]) : x ≡ y [ZMOD (p * q : Int)] :=
  (Int.modEq_and_modEq_iff_modEq_mul (by simpa using (Nat.coprime_primes hp hq).2 hpq)).1 ⟨h₁, h₂⟩

/-- The recombination has the residue `m2` modulo `q`. -/
theorem crtCombine_modEq_right (m1 m2 : Int) (p q qInv : Int) :
    crtCombine m1 m2 p q qInv ≡ m2 [ZMOD q] :=
  Int.modEq_iff_dvd.2 ⟨-((m1 - m2) * qInv % p), by
    change m2 - (m2 + q * ((m1 - m2) * qInv % p)) = _
    ring⟩

/-- The recombination has the residue `m1` modulo `p`, where `qInv` is the inverse of `q`. -/
theorem crtCombine_modEq_left {p q qInv : Int} (hinv : qInv * q ≡ 1 [ZMOD p]) (m1 m2 : Int) :
    crtCombine m1 m2 p q qInv ≡ m1 [ZMOD p] := by
  calc m2 + q * ((m1 - m2) * qInv % p)
    _ ≡ m2 + q * ((m1 - m2) * qInv) [ZMOD p] := ((Int.mod_modEq _ p).mul_left q).add_left m2
    _ = m2 + (m1 - m2) * (qInv * q) := by ring
    _ ≡ m2 + (m1 - m2) * 1 [ZMOD p] := (hinv.mul_left _).add_left m2
    _ = m1 := by ring

/-- The exponents of a key are positive integers congruent modulo `p - 1`. -/
theorem toNat_modEq_of_emod_eq {d e : Int} (hp : p.Prime) (hd : 0 < d) (he : 0 < e)
    (h : d % ((p : Int) - 1) = e % ((p : Int) - 1)) : d.toNat ≡ e.toNat [MOD p - 1] := by
  rw [← Int.natCast_modEq_iff, Int.toNat_of_nonneg hd.le, Int.toNat_of_nonneg he.le,
    Nat.cast_sub hp.one_le, Nat.cast_one]
  exact h

theorem pow_toNat_modEq {d e : Int} (hp : p.Prime) (hd : 0 < d) (he : 0 < e)
    (h : d % ((p : Int) - 1) = e % ((p : Int) - 1)) (c : Int) : c ^ d.toNat ≡ c ^ e.toNat [ZMOD p] :=
  pow_modEq_of_modEq_sub_one hp (by omega) (by omega) (toNat_modEq_of_emod_eq hp hd he h) c

end

/-! ## The two forms -/

/-- Settles O59: both values lie in `0 .. p*q - 1` and are `c^d` modulo `p` and modulo `q`. -/
theorem crtFormEqualsModulusForm : Obligations.CrtFormEqualsModulusForm := by
  intro p q d dP dQ qInv c K hp hq hpq hd hdP hdQ hdP0 hdQ0 hinv hc0 hc
  have hp0 : (0 : Int) < p := mod_cast hp.pos
  have hq0 : (0 : Int) < q := mod_cast hq.pos
  have hmod : rsaPrivMod (p * q) d c = .ok (c ^ d.toNat % (p * q)) := by
    rw [rsaPrivMod_inside hc0 hc, modPow_of_nonneg (mul_pos hp0 hq0) hd.le]
  refine ⟨?_, hmod⟩
  rw [hmod, rsaPrivCrt_inside hc0 hc (modPow_of_nonneg hp0 hdP0.le) (modPow_of_nonneg hq0 hdQ0.le)]
  have hone : qInv * q ≡ 1 [ZMOD p] := by
    rw [Int.ModEq, hinv, Int.emod_eq_of_lt zero_le_one (mod_cast hp.one_lt)]
  have hleft : crtCombine (c ^ dP.toNat % p) (c ^ dQ.toNat % q) p q qInv ≡ c ^ d.toNat [ZMOD p] :=
    ((crtCombine_modEq_left hone _ _).trans (Int.mod_modEq _ _)).trans (pow_toNat_modEq hp hdP0 hd hdP c)
  have hright : crtCombine (c ^ dP.toNat % p) (c ^ dQ.toNat % q) p q qInv ≡ c ^ d.toNat [ZMOD q] :=
    ((crtCombine_modEq_right _ _ _ _ _).trans (Int.mod_modEq _ _)).trans
      (pow_toNat_modEq hq hdQ0 hd hdQ c)
  obtain ⟨hlow, hhigh⟩ := crtCombine_mem (m1 := c ^ dP.toNat % p) (qInv := qInv) hp0
    (Int.emod_nonneg (c ^ dQ.toNat) hq0.ne') (Int.emod_lt_of_pos _ hq0)
  rw [← modEq_mul_of_primes hp hq hpq hleft hright, Int.emod_eq_of_lt hlow (by omega)]

/-! ## The round trip -/

section
variable {s : State} {rd ra : XReg} {n e m v : Int}

/-- A residue modulo a value that fits, fits. -/
theorem fits_of_lt_of_fits (hn : Fits s n) (h0 : 0 ≤ v) (hv : v < n) : Fits s v :=
  Fits.of_natAbs_le hn (by omega)

theorem endsWriting_rsaep (hx : s.x.get ra = some m) (hn : s.k.get 0 = some n)
    (he : s.k.get 1 = some e) (h0 : 0 ≤ m) (hm : m < n) (he0 : 0 ≤ e) :
    EndsWriting (.rsaep rd ra) s rd (m ^ e.toNat % n) := by
  have hexec := exec_rsaep_eq_publicPower rd ra s
  rw [publicPower_of_set hx hn he, decide_eq_false (not_or.2 ⟨h0.not_gt, hm.not_ge⟩), State.check_false,
    modPow_of_nonneg (h0.trans_lt hm) he0, State.value_ok] at hexec
  exact endsWriting_of_exec_eq_writeX hexec

theorem endsWriting_rsadp (hf : s.kform = .modKey) (hx : s.x.get ra = some m)
    (hn : s.k.get 2 = some n) (hd : s.k.get 3 = some e) (h0 : 0 ≤ m) (hm : m < n) (he0 : 0 ≤ e) :
    EndsWriting (.rsadp rd ra) s rd (m ^ e.toNat % n) := by
  have hexec := exec_eq_of_modKey (exec_rsadp_eq_rsaPriv rd ra s) hx hf hn hd
  rw [rsaPrivMod_inside h0 hm, modPow_of_nonneg (h0.trans_lt hm) he0, State.value_ok] at hexec
  exact endsWriting_of_exec_eq_writeX hexec

end

/-- Powers with exponents whose product is 1 modulo `(p-1)(q-1)` undo each other modulo `p * q`. -/
theorem pow_pow_modEq_self {p q : Nat} {e d : Int} (hp : p.Prime) (hq : q.Prime) (hpq : p ≠ q)
    (he : 0 < e) (hd : 0 < d)
    (h : e * d % (((p : Int) - 1) * ((q : Int) - 1)) = 1 % (((p : Int) - 1) * ((q : Int) - 1))) (m : Int) :
    (m ^ e.toNat % (p * q)) ^ d.toNat ≡ m [ZMOD (p * q : Int)] := by
  have hed : m ^ (e.toNat * d.toNat) = m ^ (e * d).toNat := by rw [Int.toNat_mul he.le hd.le]
  have hmod : ∀ {k : Int}, k ∣ ((p : Int) - 1) * ((q : Int) - 1) → e * d % k = 1 % k :=
    fun hk => Int.ModEq.of_dvd hk h
  have hprime : ∀ {r : Nat}, r.Prime → (r : Int) - 1 ∣ ((p : Int) - 1) * ((q : Int) - 1) →
      m ^ (e.toNat * d.toNat) ≡ m [ZMOD r] := fun hr hdvd => by
    simpa [hed] using pow_toNat_modEq hr (mul_pos he hd) one_pos (hmod hdvd) m
  calc (m ^ e.toNat % (p * q)) ^ d.toNat
    _ ≡ (m ^ e.toNat) ^ d.toNat [ZMOD (p * q : Int)] := (Int.mod_modEq _ _).pow _
    _ = m ^ (e.toNat * d.toNat) := (pow_mul _ _ _).symm
    _ ≡ m [ZMOD (p * q : Int)] := modEq_mul_of_primes hp hq hpq (hprime hp (dvd_mul_right _ _))
        (hprime hq (dvd_mul_left _ _))

/-- Settles O60: both results are residues modulo `k0`, which fits, and the powers undo each other. -/
theorem rsadpAfterRsaepIsTheMessage : Obligations.RsadpAfterRsaepIsTheMessage := by
  intro s rd rb ra p q e d m hp hq hpq he hd hed hf hk0 hk1 hk2 hk3 hfit hx h0 hm
  have hfitn : Fits s (p * q : Int) := hfit.2 0 _ hk0
  have hpos : (0 : Int) < p * q := h0.trans_lt hm
  have hc0 : 0 ≤ m ^ e.toNat % (p * q : Int) := Int.emod_nonneg _ hpos.ne'
  have hc : m ^ e.toNat % (p * q : Int) < p * q := Int.emod_lt_of_pos _ hpos
  refine ⟨m ^ e.toNat % (p * q), (endsWriting_rsaep hx hk0 hk1 h0 hm he.le).1
    (fits_of_lt_of_fits hfitn hc0 hc), ?_⟩
  have hback : (m ^ e.toNat % (p * q)) ^ d.toNat % (p * q : Int) = m :=
    Eq.trans (pow_pow_modEq_self hp hq hpq he hd hed m) (Int.emod_eq_of_lt h0 hm)
  have hdp := endsWriting_rsadp (s := written s rb (m ^ e.toNat % (p * q))) (rd := rd) (ra := rb) hf
    ((get_set s.x rb rb _).trans (if_pos rfl)) hk2 hk3 hc0 hc hd.le
  rw [hback] at hdp
  exact hdp.1 (fits_of_lt_of_fits (s := s) hfitn h0 hm)

end Sys2Proof.Machine
end

section
/-!
Key-pair generation (45_rsa.md R199 to R201): the bounds on an accepted pair, and what `generateKey` and each
installation answer; then O55 and O56.
-/

namespace Sys2Proof.Machine

variable {imm : Imm} {s : State} {g h : Rng} {p q : Nat} {w : Option Nat} {d dP dQ qInv : Int}
  {install : Nat → Nat → State → Answer} {bank : Vector (Option Int) 9} {f : KForm}

/-! ## The accepted pair -/

/-- The two primes of an accepted pair are large enough for `(p - 1)(q - 1)` to be a modulus above 1. -/
theorem two_le_of_size_mul {bits : Nat} (hbits : 10 ≤ bits) (hq : Nat.size q = bits / 2)
    (hpq : Nat.size (p * q) = bits) : 2 ≤ p ∧ 2 ≤ q := by
  have hlow : 2 ^ (bits - 1) ≤ p * q := Nat.lt_size.1 (by omega)
  have hq2 : 2 ^ 1 ≤ q := Nat.lt_size.1 (by omega)
  have hq' : q < 2 ^ (bits - 1) := Nat.size_le.1 (by omega)
  refine ⟨not_lt.1 fun hp => ?_, hq2⟩
  have hle : p * q ≤ 1 * q := Nat.mul_le_mul_right q (by omega)
  omega

/-- What `KeyGen` promises of a pair, as the installation uses it. -/
structure KeyPair (p q : Nat) : Prop where
  two_le_p : 2 ≤ p
  two_le_q : 2 ≤ q
  one_lt_phi : 1 < ((p : Int) - 1) * ((q : Int) - 1)
  gcd_phi : Int.gcd 65537 (((p : Int) - 1) * ((q : Int) - 1)) = 1

theorem keyPair_of_keyGen {bits f : Nat} (hbits : 10 ≤ bits) (hk : keyGen bits f w g = (.done p q, h)) :
    KeyPair p q := by
  obtain ⟨hok, -, -, -, hsize, -⟩ := keyGen_done hk
  obtain ⟨hpq, hgcd⟩ := keyPairOk_iff.1 hok
  obtain ⟨hp, hq⟩ := two_le_of_size_mul hbits hsize hpq
  refine ⟨hp, hq, ?_, hgcd⟩
  have hq16 : 2 ^ 4 ≤ q := Nat.lt_size.1 (by omega)
  have hp1 : (1 : Int) ≤ p - 1 := by omega
  have hq1 : (2 : Int) ≤ q - 1 := by omega
  nlinarith

/-! ## The answers of the generator -/

theorem badKeyBits_eq_true (h : imm.toNat % 2 = 1 ∨ imm.toNat < 10) : badKeyBits imm.toNat = true := by
  rw [badKeyBits, Bool.or_eq_true, decide_eq_true_eq, decide_eq_true_eq]
  exact h

theorem badKeyBits_eq_false (heven : imm.toNat % 2 = 0) (hten : 10 ≤ imm.toNat) :
    badKeyBits imm.toNat = false := by
  rw [badKeyBits, Bool.or_eq_false_iff, decide_eq_false_iff_not, decide_eq_false_iff_not]
  omega

theorem generateKey_more (hb : badKeyBits imm.toNat = false)
    (hk : keyGen imm.toNat Config.genAttempts s.work s.rng = (.more w, g)) :
    generateKey imm install s = .next { s with rng := g, work := w } := by
  rw [generateKey, hb, State.check_false, hk]
  rfl

theorem generateKey_done (hb : badKeyBits imm.toNat = false)
    (hk : keyGen imm.toNat Config.genAttempts s.work s.rng = (.done p q, g)) :
    generateKey imm install s = install p q { s with rng := g, work := none } := by
  rw [generateKey, hb, State.check_false, hk]
  rfl

theorem installKey_of_fits (h : ∀ v, some v ∈ bank.toList → Fits s v) :
    installKey bank f s = .next { s with k := bank, kform := f, pc := s.pc + 1 } := by
  obtain ⟨t, ht⟩ := State.continues_installKey (s := s) bank f
  obtain ⟨-, rfl⟩ := (State.installKey_next ht).resolve_right fun hno => hno.1 h
  exact ht

theorem installKey_of_not_fits (h : ¬ ∀ v, some v ∈ bank.toList → Fits s v) :
    installKey bank f s = .next (faulted s .capacityFault) := by
  obtain ⟨t, ht⟩ := State.continues_installKey (s := s) bank f
  obtain ⟨-, rfl⟩ := (State.installKey_next ht).resolve_left fun hyes => h hyes.1
  exact ht

/-! ## What must fit -/

theorem modKeyBank_fits_iff : (∀ v, some v ∈ (modKeyBank p q d).toList → Fits s v) ↔
    Fits s (p * q : Int) ∧ Fits s 65537 ∧ Fits s d := by
  have hbank : ∀ v, some v ∈ (modKeyBank p q d).toList ↔ v = p * q ∨ v = 65537 ∨ v = d := fun v => by
    simp [modKeyBank, Config.pubExponent]
    tauto
  simp only [hbank, forall_eq_or_imp, forall_eq]

theorem crtKeyBank_fits_iff : (∀ v, some v ∈ (crtKeyBank p q d dP dQ qInv).toList → Fits s v) ↔
    ∀ v ∈ [(p * q : Int), 65537, d, p, q, dP, dQ, qInv], Fits s v := by
  refine forall_congr' fun v => imp_congr ?_ Iff.rfl
  simp [crtKeyBank, Config.pubExponent]
  tauto

/-! ## The inverses of the public exponent -/

/-- `65537` has an inverse modulo every positive divisor of `(p - 1)(q - 1)`. -/
theorem exists_inverse_of_dvd_phi (hpair : KeyPair p q) {n : Int} (hn : 0 < n)
    (hdvd : n ∣ ((p : Int) - 1) * ((q : Int) - 1)) :
    ∃ t, 0 ≤ t ∧ t < n ∧ 65537 * t % n = 1 % n ∧ modInverse Config.pubExponent n = .ok t :=
  exists_modInverse_eq_ok hn (Int.isCoprime_iff_gcd_eq_one.1
    ((Int.isCoprime_iff_gcd_eq_one.2 hpair.gcd_phi).of_isCoprime_of_dvd_right hdvd))

theorem exists_inverse_phi (hpair : KeyPair p q) :
    ∃ d, 0 ≤ d ∧ d < ((p : Int) - 1) * ((q : Int) - 1) ∧ 65537 * d % (((p : Int) - 1) * ((q : Int) - 1)) = 1 ∧
      modInverse Config.pubExponent (keyPhi p q) = .ok d := by
  obtain ⟨d, h0, hlt, hmul, hd⟩ :=
    exists_inverse_of_dvd_phi hpair (by linarith [hpair.one_lt_phi]) dvd_rfl
  rw [Int.emod_eq_of_lt zero_le_one hpair.one_lt_phi] at hmul
  exact ⟨d, h0, hlt, hmul, hd⟩

/-! ## The obligations -/

/-- Settles O55: the pair of `KeyGen` has an inverse exponent, and `installKey` writes all or nothing. -/
theorem keygenInstallsAModulusKey : Obligations.KeygenInstallsAModulusKey := by
  refine fun s imm g => ⟨fun hbad => exec_key_of_bad (.inl rfl) (badKeyBits_eq_true hbad),
    fun heven hten => ⟨fun w hk => generateKey_more (badKeyBits_eq_false heven hten) hk, fun p q hk => ?_⟩⟩
  obtain ⟨d, h0, hlt, hmul, hd⟩ := exists_inverse_phi (keyPair_of_keyGen hten hk)
  have hexec : exec (.keygen imm) s =
      installKey (modKeyBank p q d) .modKey { s with rng := g, work := none } := by
    refine (generateKey_done (install := installModKey) (badKeyBits_eq_false heven hten) hk).trans ?_
    rw [installModKey, hd, State.value_ok]
  refine ⟨d, h0, hlt, hmul, fun hfit => ?written, fun hfit => ?tooBig⟩
  case written => exact hexec.trans (installKey_of_fits (modKeyBank_fits_iff.2 hfit))
  case tooBig => exact hexec.trans (installKey_of_not_fits (mt modKeyBank_fits_iff.1 hfit))

/-- Settles O56: as for `KEYGEN`, with an inverse exponent modulo `p - 1` and `q - 1` too; only the inverse
of `q` modulo `p` can be missing. -/
theorem keygencInstallsACrtKey : Obligations.KeygencInstallsACrtKey := by
  refine fun s imm g => ⟨fun hbad => exec_key_of_bad (.inr rfl) (badKeyBits_eq_true hbad),
    fun heven hten => ⟨fun w hk => generateKey_more (badKeyBits_eq_false heven hten) hk, fun p q hk => ?_⟩⟩
  have hpair := keyPair_of_keyGen hten hk
  have hp0 : (0 : Int) < p - 1 := by have := hpair.two_le_p; omega
  have hq0 : (0 : Int) < q - 1 := by have := hpair.two_le_q; omega
  obtain ⟨d, h0, hlt, hmul, hd⟩ := exists_inverse_phi hpair
  obtain ⟨dP, hP0, hPlt, hPmul, hdP⟩ := exists_inverse_of_dvd_phi hpair hp0 (dvd_mul_right _ _)
  obtain ⟨dQ, hQ0, hQlt, hQmul, hdQ⟩ := exists_inverse_of_dvd_phi hpair hq0 (dvd_mul_left _ _)
  have hexec : exec (.keygenc imm) s =
      State.value { s with rng := g, work := none } (modInverse q p) fun qInv =>
        installKey (crtKeyBank p q d dP dQ qInv) .crtKey { s with rng := g, work := none } := by
    refine (generateKey_done (install := installCrtKey) (badKeyBits_eq_false heven hten) hk).trans ?_
    rw [installCrtKey, hd, State.value_ok, hdP, State.value_ok, hdQ, State.value_ok]
  have hgcd : Int.gcd q p = Nat.gcd p q := (Int.gcd_natCast_natCast q p).trans (Nat.gcd_comm q p)
  refine ⟨fun hne => ?refused, fun hone => ?coprime⟩
  case refused => rw [hexec, modInverse_eq_error (.inr (by rwa [hgcd])), State.value_error]
  case coprime =>
    obtain ⟨qInv, hI0, hIlt, hImul, hqInv⟩ :=
      exists_modInverse_eq_ok (a := q) (n := p) (by omega) (hgcd.trans hone)
    rw [hqInv, State.value_ok] at hexec
    exact ⟨d, dP, dQ, qInv, h0, hlt, hmul, hP0, hPlt, hPmul, hQ0, hQlt, hQmul, hI0, hIlt, hImul,
      fun hfit => hexec.trans (installKey_of_fits (crtKeyBank_fits_iff.2 hfit)),
      fun hfit => hexec.trans (installKey_of_not_fits (mt crtKeyBank_fits_iff.1 hfit))⟩

end Sys2Proof.Machine
end

section
/-!
`PTEST`, `PGEN` and `PGENS` (44_prime.md R172 to R174): what each command answers in terms of `MR` and of
`PrimeGen`; then O47 and O49.
-/

namespace Sys2Proof.Machine

variable {s : State} {rd ra : XReg} {imm : Imm} {n : Int} {g : Rng} {safe : Bool}

/-! ## The test -/

theorem exec_ptest (hx : s.x.get ra = some n) (hr : imm.toNat ≠ 0) : exec (.ptest ra imm) s =
    if n < 2 then .next ((s.setRng s.rng).writeT false).advance
    else if n ≤ 3 then .next ((s.setRng s.rng).writeT true).advance
    else if n % 2 = 0 then .next ((s.setRng s.rng).writeT false).advance
    else .next ((s.setRng (millerRabin n.toNat imm.toNat s.rng).2).writeT
      (millerRabin n.toNat imm.toNat s.rng).1).advance := by
  rw [← bitAt_zero]
  exact exec_eq_of_check (State.readX_some hx _) hr

/-- Settles O47, by the branches of the command. -/
theorem primalityTest : Obligations.PrimalityTest := by
  refine fun s ra n imm hx => ⟨fun h0 => faults_of_check (State.readX_some hx _) h0, fun hr =>
    ⟨fun h => ?small, fun h => ?twoOrThree, fun h heven => ?even, fun h hodd => ?rounds⟩⟩ <;>
    refine endsSettingT_of_exec_eq ((exec_ptest hx hr).trans ?_)
  case small => rw [if_pos h]
  case twoOrThree => rw [if_neg (by omega), if_pos (by omega)]
  case even => rw [if_neg (by omega), if_neg (by omega), if_pos heven]
  case rounds => rw [if_neg (by omega), if_neg (by omega), if_neg (by omega)]

/-! ## The generators -/

theorem exec_generator (safe : Bool) : exec (if safe then .pgens rd imm else .pgen rd imm) s =
    generatePrime safe rd imm s := by
  cases safe <;> rfl

theorem generatePrime_of_small (h : imm.toNat < 5) :
    generatePrime safe rd imm s = .next (faulted s .badParameter) := by
  rw [generatePrime, decide_eq_true h, State.check_true]

theorem generatePrime_of_none (h : 5 ≤ imm.toNat)
    (hp : primeGen imm.toNat safe Config.genAttempts s.rng = (none, g)) :
    generatePrime safe rd imm s = .next { s with rng := g } := by
  rw [generatePrime, decide_eq_false h.not_gt, State.check_false, hp]
  rfl

theorem generatePrime_of_some {p : Nat} (h : 5 ≤ imm.toNat)
    (hp : primeGen imm.toNat safe Config.genAttempts s.rng = (some p, g)) :
    generatePrime safe rd imm s = State.writeX { s with rng := g } rd p := by
  rw [generatePrime, decide_eq_false h.not_gt, State.check_false, hp]
  rfl

/-- Settles O49, by the three answers of `generatePrime`; the draws do not change what fits. -/
theorem primeGenerationCommands : Obligations.PrimeGenerationCommands := by
  intro s rd imm p g safe i
  have hexec : exec i s = generatePrime safe rd imm s := exec_generator safe
  refine ⟨fun h => hexec.trans (generatePrime_of_small h), fun h hp => ⟨fun hnone => ?more, fun v hv => ?done⟩⟩
  case more =>
    subst hnone
    exact hexec.trans (generatePrime_of_none h hp)
  case done =>
    subst hv
    have hwrite := hexec.trans (generatePrime_of_some h hp)
    have hfits := fits_congr (t := { s with rng := g }) (s := s) rfl v
    exact ⟨fun hfit => hwrite.trans (State.writeX_fits (hfits.2 hfit)),
      fun hfit => hwrite.trans (State.writeX_not_fits (mt hfits.1 hfit))⟩

end Sys2Proof.Machine
end

section
/-!
The Miller-Rabin test (44_prime.md R166 to R168): the closed form of a witness, the rounds as a list of drawn
bases, and why a prime has no witness; then O45 and O48.
-/

namespace Sys2Proof.Machine

variable {n a s d r k : Nat} {g g' : Rng}

/-! ## The witness -/

/-- The loop finds the one way to write a number as a power of two times an odd number. -/
theorem splitTwos_pow_mul {f : Nat} (hd : d % 2 = 1) (hs : s ≤ f) (k : Nat) :
    splitTwos f (2 ^ s * d) k = (k + s, d) := by
  induction s generalizing f k with
  | zero =>
    rw [pow_zero, one_mul, add_zero]
    cases f with
    | zero => rfl
    | succ f => rw [splitTwos, if_neg (by omega)]
  | succ s ih =>
    obtain ⟨f, rfl⟩ := Nat.exists_eq_add_one_of_ne_zero (Nat.ne_zero_of_lt hs)
    have hhalf : 2 ^ (s + 1) * d = 2 * (2 ^ s * d) := by ring
    rw [splitTwos, hhalf, if_pos (Nat.mul_mod_right 2 _), Nat.mul_div_cancel_left _ two_pos,
      ih (Nat.le_of_succ_le_succ hs), Nat.add_right_comm k 1 s, add_assoc]

theorem mrSquarings_eq_false_iff {y : Nat} :
    mrSquarings k n y = false ↔ ∃ j < k, y ^ 2 ^ (j + 1) % n = n - 1 := by
  induction k generalizing y with
  | zero => simp [mrSquarings]
  | succ k ih =>
    have hnext : ∀ j, (y * y % n) ^ 2 ^ (j + 1) % n = y ^ 2 ^ (j + 1 + 1) % n := fun j => by
      rw [← Nat.pow_mod, ← pow_two, ← pow_mul, ← pow_succ']
    rw [mrSquarings, Nat.exists_lt_succ_left, pow_one, pow_two]
    split
    case isTrue h => exact iff_of_true rfl (.inl h)
    case isFalse h =>
      rw [ih, or_iff_right h]
      simp only [hnext]

theorem powMod_toNat (hn : 0 < n) (a e : Nat) : (powMod a e n).toNat = a ^ e % n := by
  rw [powMod_eq (mod_cast hn), ← Nat.cast_pow, ← Int.natCast_mod, Int.toNat_natCast]

theorem mrWitness_eq_false_iff (hn : 5 ≤ n) (hodd : n % 2 = 1) (hsd : n - 1 = 2 ^ s * d)
    (hd : d % 2 = 1) :
    mrWitness a n = false ↔ a ^ d % n = 1 ∨ ∃ r < s, a ^ (2 ^ r * d) % n = n - 1 := by
  have hlen : s ≤ natLen (n - 1) := by
    rw [natLen_eq_size, hsd]
    exact (Nat.lt_size.2 (Nat.le_mul_of_pos_right _ (by omega))).le
  obtain ⟨s, rfl⟩ : ∃ t, s = t + 1 := by
    refine Nat.exists_eq_add_one_of_ne_zero fun h0 => ?_
    rw [h0, pow_zero, one_mul] at hsd
    omega
  have hpow : ∀ j, (a ^ d % n) ^ 2 ^ (j + 1) % n = a ^ (2 ^ (j + 1) * d) % n := fun j => by
    rw [← Nat.pow_mod, ← pow_mul, mul_comm d]
  have hsplit := splitTwos_pow_mul hd hlen 0
  rw [← hsd, zero_add] at hsplit
  simp only [mrWitness, hsplit, powMod_toNat (by omega : 0 < n), Nat.add_sub_cancel]
  rw [Nat.exists_lt_succ_left, pow_zero, one_mul, ← or_assoc]
  split
  case isTrue h => exact iff_of_true rfl (.inl h)
  case isFalse h =>
    rw [mrSquarings_eq_false_iff, or_iff_right h]
    simp only [hpow]

/-! ## The rounds -/

theorem drawBase_mem (hn : 5 ≤ n) (g : Rng) : 2 ≤ (drawBase n g).1 ∧ (drawBase n g).1 ≤ n - 2 := by
  have hlt : beVal (rngFill ((natLen n + 7) / 8) g).1 % (n - 3) < n - 3 := Nat.mod_lt _ (by omega)
  change 2 ≤ 2 + beVal (rngFill ((natLen n + 7) / 8) g).1 % (n - 3) ∧
    2 + beVal (rngFill ((natLen n + 7) / 8) g).1 % (n - 3) ≤ n - 2
  omega

theorem drawBase_snd (n : Nat) (g : Rng) :
    (drawBase n g).2 = randomNext g ((Nat.size n + 7) / 8) := by
  rw [← natLen_eq_size]
  rfl

theorem drawnBases_length (n k : Nat) (g : Rng) : (drawnBases n k g).1.length = k := by
  induction k generalizing g with
  | zero => rfl
  | succ k ih => rw [drawnBases, List.length_cons, ih]

theorem mem_drawnBases (hn : 5 ≤ n) (h : a ∈ (drawnBases n k g).1) : 2 ≤ a ∧ a ≤ n - 2 := by
  induction k generalizing g with
  | zero => cases h
  | succ k ih =>
    obtain rfl | h := List.mem_cons.1 h
    · exact drawBase_mem hn g
    · exact ih h

theorem drawnBases_counts (n k : Nat) (g : Rng) : (drawnBases n k g).2.calls = g.calls + k ∧
    (drawnBases n k g).2.bytes = g.bytes + k * ((Nat.size n + 7) / 8) := by
  induction k generalizing g with
  | zero => exact ⟨rfl, by rw [zero_mul]; rfl⟩
  | succ k ih =>
    obtain ⟨hcalls, hbytes⟩ := ih (drawBase n g).2
    rw [drawBase_snd] at hcalls hbytes
    rw [drawnBases, drawBase_snd]
    refine ⟨hcalls.trans (Nat.add_right_comm g.calls 1 k), hbytes.trans ?_⟩
    rw [Nat.succ_mul, ← add_assoc]
    exact Nat.add_right_comm g.bytes _ _

/-- What a verdict says of the bases that were tried. -/
def VerdictOn (n r : Nat) (bases : List Nat) : Bool → Prop
  | true => bases.length = r ∧ ∀ a ∈ bases, mrWitness a n = false
  | false => ∃ before last, bases = before ++ [last] ∧ mrWitness last n = true ∧
      ∀ a ∈ before, mrWitness a n = false

theorem VerdictOn.cons {bases : List Nat} {verdict : Bool} (ha : mrWitness a n = false)
    (h : VerdictOn n r bases verdict) : VerdictOn n (r + 1) (a :: bases) verdict := by
  cases verdict with
  | true => exact ⟨congrArg (· + 1) h.1, List.forall_mem_cons.2 ⟨ha, h.2⟩⟩
  | false =>
    obtain ⟨before, last, rfl, hlast, hbefore⟩ := h
    exact ⟨a :: before, last, rfl, hlast, List.forall_mem_cons.2 ⟨ha, hbefore⟩⟩

/-- The rounds run on the bases drawn one after another and stop at the first witness. -/
theorem millerRabin_drawnBases (n r : Nat) (g : Rng) : ∃ k ≤ r,
    (drawnBases n k g).2 = (millerRabin n r g).2 ∧
      VerdictOn n r (drawnBases n k g).1 (millerRabin n r g).1 := by
  induction r generalizing g with
  | zero => exact ⟨0, le_rfl, rfl, rfl, nofun⟩
  | succ r ih =>
    rw [millerRabin]
    cases hw : mrWitness (drawBase n g).1 n with
    | true => exact ⟨1, by omega, rfl, [], _, rfl, hw, nofun⟩
    | false =>
      obtain ⟨k, hk, hsource, hverdict⟩ := ih (drawBase n g).2
      exact ⟨k + 1, by omega, hsource, hverdict.cons hw⟩

/-- Settles O45: the closed form of the witness, and the rounds as drawn bases. -/
theorem roundsStopAtTheFirstWitness : Obligations.RoundsStopAtTheFirstWitness := by
  refine ⟨fun n a s d hn hodd _ _ hsd hd => mrWitness_eq_false_iff hn hodd hsd hd,
    fun n r g g' verdict hn hrun => ?rounds⟩
  case rounds =>
    obtain ⟨k, hk, hsource, hverdict⟩ := millerRabin_drawnBases n r g
    obtain ⟨hcalls, hbytes⟩ := drawnBases_counts n k g
    have hlen := drawnBases_length n k g
    rw [hrun] at hsource hverdict
    rw [hsource] at hcalls hbytes
    refine ⟨k, (drawnBases n k g).1, Prod.ext rfl hsource, hlen, hk, fun a => mem_drawnBases hn, hcalls,
      hbytes, ?passed, ?failed⟩
    case passed =>
      rintro rfl
      exact ⟨hlen.symm.trans hverdict.1, hverdict.2⟩
    case failed =>
      rintro rfl
      exact hverdict

/-! ## Primes -/

/-- Where -1 and 1 are the only square roots of 1, repeated squaring reaches 1 only through -1. -/
theorem eq_one_or_exists_pow_eq_neg_one {R : Type} [CommRing R] [IsDomain R] {x : R}
    (h : x ^ 2 ^ s = 1) : x = 1 ∨ ∃ r < s, x ^ 2 ^ r = -1 := by
  induction s with
  | zero => exact .inl (by simpa using h)
  | succ s ih =>
    rw [pow_succ, pow_mul, sq_eq_one_iff] at h
    obtain h | h := h
    · exact (ih h).imp_right fun ⟨r, hr, hx⟩ => ⟨r, Nat.lt_succ_of_lt hr, hx⟩
    · exact .inr ⟨s, Nat.lt_succ_self s, h⟩

/-- No base is a witness against a prime (44_prime.md R166). -/
theorem mrWitness_of_prime {p : Nat} (hp : p.Prime) (h5 : 5 ≤ p) (ha : 2 ≤ a) (hap : a ≤ p - 2) :
    mrWitness a p = false := by
  have : Fact p.Prime := ⟨hp⟩
  obtain ⟨s, d, hd, hsd⟩ := Nat.exists_eq_two_pow_mul_odd (n := p - 1) (by omega)
  have ha0 : (a : ZMod p) ≠ 0 := fun h0 =>
    Nat.not_dvd_of_pos_of_lt (by omega) (by omega) ((ZMod.natCast_eq_zero_iff a p).1 h0)
  have hone : ((a : ZMod p) ^ d) ^ 2 ^ s = 1 := by
    rw [← pow_mul, mul_comm, ← hsd, ZMod.pow_card_sub_one_eq_one ha0]
  rw [mrWitness_eq_false_iff h5 (Nat.odd_iff.1 (hp.odd_of_ne_two (by omega))) hsd (Nat.odd_iff.1 hd)]
  refine (eq_one_or_exists_pow_eq_neg_one hone).imp (fun h => ?one) fun ⟨r, hr, h⟩ => ⟨r, hr, ?negOne⟩
  case one =>
    rw [← Nat.mod_eq_of_lt (show 1 < p by omega), ← ZMod.natCast_eq_natCast_iff']
    exact_mod_cast h
  case negOne =>
    rw [← Nat.mod_eq_of_lt (show p - 1 < p by omega), ← ZMod.natCast_eq_natCast_iff', mul_comm, pow_mul,
      Nat.cast_sub hp.one_le]
    simpa using h

/-- `MR` passes every prime, whatever the source answers. -/
theorem millerRabin_of_prime {p : Nat} (hp : p.Prime) (h5 : 5 ≤ p) (r : Nat) (g : Rng) :
    (millerRabin p r g).1 = true := by
  obtain ⟨k, -, -, hverdict⟩ := millerRabin_drawnBases p r g
  cases hv : (millerRabin p r g).1 with
  | true => rfl
  | false =>
    rw [hv] at hverdict
    obtain ⟨before, last, hbases, hlast, -⟩ := hverdict
    obtain ⟨hlow, hhigh⟩ := mem_drawnBases h5 (hbases ▸ List.mem_append_right before (.head []))
    rw [mrWitness_of_prime hp h5 hlow hhigh] at hlast
    cases hlast

/-- Settles O48: 2 and 3 are decided without a request, and `MR` passes every other prime. -/
theorem ptestNeverRejectsAPrime : Obligations.PtestNeverRejectsAPrime := by
  intro s ra p imm hx hp hr
  obtain ⟨-, htwoOrThree, -, hrounds⟩ := (primalityTest s ra p imm hx).2 hr
  obtain h3 | h3 := le_or_gt p 3
  case inl =>
    have hp2 := hp.two_le
    exact ⟨_, htwoOrThree (by omega)⟩
  case inr =>
    have hodd : p % 2 = 1 := Nat.odd_iff.1 (hp.odd_of_ne_two (by omega))
    have h := hrounds (by omega) (by omega)
    rw [Int.toNat_natCast, millerRabin_of_prime hp (by omega)] at h
    exact ⟨_, h⟩

end Sys2Proof.Machine
end

section
/-!
What is drawn from the random source (44_prime.md R167, R169, R176): the value of the bytes answered, as the
claims read it; the range of each draw, and that scripted answers reach all of it; then O44.
-/

namespace Sys2Proof.Machine

variable {n bits a c L : Nat} {g : Rng}

/-! ## The bytes answered -/

theorem rngBytes_succ (L : Nat) (g : Rng) : rngBytes (L + 1) g.script g.bytes =
    randomByte g 0 :: rngBytes L (randomNext g 1).script (randomNext g 1).bytes := by
  obtain ⟨_ | ⟨b, bs⟩, bytes, calls⟩ := g <;> rfl

theorem randomByte_randomNext_one (g : Rng) (j : Nat) :
    randomByte (randomNext g 1) j = randomByte g (j + 1) := by
  rw [randomByte, randomByte, randomNext, List.getD_eq_getElem?_getD, List.getD_eq_getElem?_getD,
    List.getElem?_drop, Nat.add_right_comm, add_assoc, Nat.add_comm 1 j]

@[simp] theorem rngBytes_length (L : Nat) (g : Rng) : (rngBytes L g.script g.bytes).length = L := by
  induction L generalizing g with
  | zero => rfl
  | succ L ih => rw [rngBytes_succ, List.length_cons, ih]

theorem randomValue_succ (g : Rng) (L : Nat) :
    randomValue g (L + 1) = (randomByte g 0).toNat * 256 ^ L + randomValue (randomNext g 1) L := by
  rw [randomValue, Finset.sum_range_succ', add_comm]
  refine congrArg₂ (· + ·) rfl (Finset.sum_congr rfl fun j _ => ?_)
  rw [randomByte_randomNext_one, Nat.add_sub_cancel, Nat.sub_sub, Nat.add_comm j 1]

/-- The value of a request's bytes is the one the claims sum up. -/
theorem beVal_rngFill (L : Nat) (g : Rng) : beVal (rngFill L g).1 = randomValue g L := by
  change beVal (rngBytes L g.script g.bytes) = _
  induction L generalizing g with
  | zero => rfl
  | succ L ih => rw [rngBytes_succ, beVal_cons, rngBytes_length, ih, randomValue_succ]

theorem rngBytes_of_script (bs : List Byte) (p : Nat) : rngBytes bs.length bs p = bs := by
  induction bs generalizing p with
  | nil => rfl
  | cons b bs ih => rw [List.length_cons, rngBytes, ih]

/-- A scripted request answers any value that its bytes can hold. -/
theorem randomValue_beBytes {v : Nat} (h : v < 256 ^ L) (b k : Nat) :
    randomValue ⟨beBytes L v, b, k⟩ L = v := by
  have hbytes := rngBytes_of_script (beBytes L v) b
  rw [beBytes_length] at hbytes
  rw [← beVal_rngFill, rngFill, hbytes, beVal_beBytes, Nat.mod_eq_of_lt h]

/-! ## Bases -/

theorem drawBase_eq (n : Nat) (g : Rng) : drawBase n g =
    (2 + randomValue g ((Nat.size n + 7) / 8) % (n - 3), randomNext g ((Nat.size n + 7) / 8)) := by
  rw [← beVal_rngFill, ← natLen_eq_size]
  rfl

theorem lt_pow_size (n : Nat) : n < 256 ^ ((Nat.size n + 7) / 8) :=
  (lt_pow_iff_natLen_le _ _).2 (by rw [natLen_eq_size]; omega)

theorem exists_drawBase_eq (h2 : 2 ≤ a) (hn : a ≤ n - 2) :
    ∃ answers, (drawBase n ⟨answers, 0, 0⟩).1 = a := by
  refine ⟨beBytes ((Nat.size n + 7) / 8) (a - 2), ?_⟩
  have hlt : a - 2 < 256 ^ ((Nat.size n + 7) / 8) := (show a - 2 < n by omega).trans (lt_pow_size n)
  rw [drawBase_eq, randomValue_beBytes hlt, Nat.mod_eq_of_lt (by omega)]
  omega

/-! ## Candidates -/

/-- Setting the highest of `k + 1` bits leaves the `k` below it. -/
theorem setTopBit_eq {v k : Nat} (hv : v < 2 ^ (k + 1)) :
    (if v / 2 ^ k % 2 = 0 then v + 2 ^ k else v) = 2 ^ k + v % 2 ^ k := by
  have hsplit := Nat.div_add_mod v (2 ^ k)
  have hlt : v / 2 ^ k < 2 := Nat.div_lt_of_lt_mul (by rwa [← pow_succ])
  obtain hq | hq := Nat.le_one_iff_eq_zero_or_eq_one.1 (Nat.le_of_lt_succ hlt)
  · rw [hq, mul_zero, zero_add] at hsplit
    rw [hq, if_pos rfl, hsplit, add_comm]
  · rw [hq, mul_one] at hsplit
    rw [hq, if_neg (by decide), hsplit]

/-- A candidate of `k + 1` bits: the top bit, the bits drawn between, and the low bit. -/
def candidate (k v : Nat) : Nat := 2 ^ k + (2 * (v % 2 ^ k / 2) + 1)

theorem shapeCandidate_eq {k : Nat} (hk : 1 ≤ k) (bs : List Byte) :
    shapeCandidate (k + 1) bs = candidate k (beVal bs) := by
  obtain ⟨m, rfl⟩ := Nat.exists_eq_add_one_of_ne_zero (Nat.one_le_iff_ne_zero.1 hk)
  have hpow : 2 ^ (m + 1) = 2 * 2 ^ m := Nat.pow_succ'
  have hmod : beVal bs % 2 ^ (m + 1 + 1) % 2 ^ (m + 1) = beVal bs % 2 ^ (m + 1) :=
    Nat.mod_mod_of_dvd _ (pow_dvd_pow 2 (Nat.le_succ _))
  rw [shapeCandidate, Nat.add_sub_cancel, candidate]
  simp only [setTopBit_eq (Nat.mod_lt (beVal bs) (Nat.two_pow_pos (m + 1 + 1))), hmod]
  split <;> omega

theorem drawCandidate_eq {k : Nat} (hk : 1 ≤ k) (g : Rng) : drawCandidate (k + 1) g =
    (candidate k (randomValue g ((k + 1 + 7) / 8)), randomNext g ((k + 1 + 7) / 8)) := by
  rw [← beVal_rngFill, ← shapeCandidate_eq hk]
  rfl

section
variable {k v : Nat}

theorem candidate_lt (hk : 1 ≤ k) (v : Nat) : candidate k v < 2 ^ (k + 1) := by
  have hlt : v % 2 ^ k < 2 ^ k := Nat.mod_lt _ (Nat.two_pow_pos k)
  obtain ⟨m, rfl⟩ := Nat.exists_eq_add_one_of_ne_zero (Nat.one_le_iff_ne_zero.1 hk)
  have hpow : 2 ^ (m + 1) = 2 * 2 ^ m := Nat.pow_succ'
  rw [candidate, pow_succ 2 (m + 1)]
  omega

theorem pow_lt_candidate (k v : Nat) : 2 ^ k < candidate k v := by
  rw [candidate]
  omega

theorem candidate_odd (hk : 1 ≤ k) (v : Nat) : candidate k v % 2 = 1 := by
  obtain ⟨m, rfl⟩ := Nat.exists_eq_add_one_of_ne_zero (Nat.one_le_iff_ne_zero.1 hk)
  rw [candidate, pow_succ']
  omega

theorem size_candidate (hk : 1 ≤ k) (v : Nat) : Nat.size (candidate k v) = k + 1 :=
  le_antisymm (Nat.size_le.2 (candidate_lt hk v)) (Nat.lt_size.2 (pow_lt_candidate k v).le)

theorem testBit_candidate (hk : 1 ≤ k) (v i : Nat) : (candidate k v).testBit i = true ↔
    i = 0 ∨ i = k ∨ (i < k + 1 ∧ v.testBit i = true) := by
  obtain hik | rfl | hik := lt_trichotomy i k
  case inl =>
    rw [candidate, Nat.testBit_two_pow_add_gt hik]
    cases i with
    | zero => simp
    | succ i =>
      have hhalf : (2 * (v % 2 ^ k / 2) + 1) / 2 = v % 2 ^ k / 2 := by omega
      rw [Nat.testBit_succ, hhalf, ← Nat.testBit_succ, Nat.testBit_mod_two_pow, decide_eq_true hik,
        Bool.true_and]
      have hne : i + 1 ≠ k := hik.ne
      simp [hne, Nat.lt_succ_of_lt hik]
  case inr.inl =>
    rw [Nat.testBit_of_two_pow_le_and_two_pow_add_one_gt (pow_lt_candidate i v).le (candidate_lt hk v)]
    simp
  case inr.inr =>
    have hlt : candidate k v < 2 ^ i :=
      (candidate_lt hk v).trans_le (Nat.pow_le_pow_right two_pos hik)
    rw [Nat.testBit_lt_two_pow hlt]
    refine iff_of_false nofun ?_
    omega

/-- Every odd number with its highest bit at `k` is the candidate of its own bits. -/
theorem candidate_self (hk : 1 ≤ k) (hlow : 2 ^ k ≤ c) (hhigh : c < 2 ^ (k + 1)) (hodd : c % 2 = 1) :
    candidate k c = c := by
  obtain ⟨r, rfl⟩ := Nat.exists_eq_add_of_le hlow
  rw [pow_succ] at hhigh
  obtain ⟨m, rfl⟩ := Nat.exists_eq_add_one_of_ne_zero (Nat.one_le_iff_ne_zero.1 hk)
  have hpow : 2 ^ (m + 1) = 2 * 2 ^ m := Nat.pow_succ'
  rw [candidate, Nat.add_mod_left, Nat.mod_eq_of_lt (by omega)]
  omega

end

theorem exists_drawCandidate_eq {k : Nat} (hk : 1 ≤ k) (hlow : 2 ^ k ≤ c) (hhigh : c < 2 ^ (k + 1))
    (hodd : c % 2 = 1) :
    (drawCandidate (k + 1) ⟨beBytes ((k + 1 + 7) / 8) c, 0, 0⟩).1 = c := by
  have hlt : c < 256 ^ ((k + 1 + 7) / 8) := by
    refine (lt_pow_size c).trans_le (Nat.pow_le_pow_right (by decide) ?_)
    have hsize : Nat.size c ≤ k + 1 := Nat.size_le.2 hhigh
    omega
  rw [drawCandidate_eq hk, randomValue_beBytes hlt]
  exact candidate_self hk hlow hhigh hodd

/-- Settles O44: each draw as a function of its bytes, and a script for each value. -/
theorem drawsCoverTheirRanges : Obligations.DrawsCoverTheirRanges := by
  refine ⟨fun n g hn => ?base, fun bits g hbits => ?candidate⟩
  case base =>
    obtain ⟨hlow, hhigh⟩ := drawBase_mem hn g
    exact ⟨drawBase_eq n g, hlow, hhigh, fun a => exists_drawBase_eq⟩
  case candidate =>
    obtain ⟨k, rfl⟩ := Nat.exists_eq_add_one_of_ne_zero (show bits ≠ 0 by omega)
    have hk : 1 ≤ k := by omega
    have hlt := candidate_lt hk (randomValue g ((k + 1 + 7) / 8))
    have hpos : 0 < 2 ^ (k + 1) := Nat.two_pow_pos _
    rw [drawCandidate_eq hk, Nat.add_sub_cancel]
    refine ⟨testBit_candidate hk _, rfl, pow_lt_candidate k _, Nat.le_sub_one_of_lt hlt,
      candidate_odd hk _, size_candidate hk _, fun c hlow hhigh hodd =>
        ⟨_, exists_drawCandidate_eq hk (Nat.le_of_succ_le hlow) (by omega) hodd⟩⟩

end Sys2Proof.Machine
end

section
/-!
When `PrimeGen` ends and when it does not (44_prime.md R175): a scripted prime is returned in one pass, and
529 = 23², drawn again and again with the base 2, never; then O51.
-/

namespace Sys2Proof.Machine

variable {bits p k f : Nat} {g : Rng}

/-! ## A prime is returned -/

theorem sieve_of_prime (hp : p.Prime) (h : 19 < p) : sieve p = p := by
  obtain ⟨-, hle, -, -, hfirst⟩ := sieveFindsTheNextCoprime p
  refine hle.antisymm' (not_lt.1 fun hlt => ?_)
  obtain ⟨q, hq, hqp⟩ := hfirst p le_rfl hlt rfl
  have hq' : 1 < q ∧ q ≤ 19 :=
    (by decide : ∀ q ∈ [3, 5, 7, 11, 13, 17, 19], 1 < q ∧ q ≤ 19) q hq
  obtain rfl | rfl := (Nat.dvd_prime hp).1 hqp <;> omega

/-- The pass that draws a prime of the right length returns it. -/
theorem primePass_of_prime (hp : p.Prime) (h : 19 < p) (hdraw : (drawCandidate bits g).1 = p)
    (hsize : Nat.size p = bits) : ∃ g', primePass bits false g = (some p, g') := by
  have hlen : ¬ natLen p ≠ bits := not_not.2 ((natLen_eq_size p).trans hsize)
  rw [primePass]
  simp only [hdraw, sieve_of_prime hp h, if_neg hlen, millerRabin_of_prime hp (by omega : 5 ≤ p), if_true]
  exact ⟨_, rfl⟩

/-- There is a prime above 19 of every bit length from 5 on (Bertrand's postulate). -/
theorem exists_prime_of_size (hk : 4 ≤ k) : ∃ p, p.Prime ∧ 19 < p ∧ 2 ^ k ≤ p ∧ p < 2 ^ (k + 1) := by
  obtain rfl | hk := hk.eq_or_lt
  case inl => exact ⟨23, by norm_num, by norm_num, by norm_num, by norm_num⟩
  case inr =>
    obtain ⟨p, hp, hlow, hhigh⟩ := Nat.exists_prime_lt_and_le_two_mul (2 ^ k) (Nat.two_pow_pos k).ne'
    have h32 : 2 ^ 5 ≤ 2 ^ k := Nat.pow_le_pow_right two_pos hk
    rw [← pow_succ'] at hhigh
    refine ⟨p, hp, by omega, hlow.le, hhigh.lt_of_ne ?_⟩
    rintro rfl
    exact Nat.Prime.not_prime_pow (by omega) hp

/-! ## A composite that is drawn again and again -/

theorem drawCandidate_529 (rest : List Byte) (b c : Nat) :
    drawCandidate 10 ⟨0x02 :: 0x11 :: rest, b, c⟩ = (529, ⟨rest, b + 2, c + 1⟩) := by
  have hshape : shapeCandidate 10 [0x02, 0x11] = 529 := by decide +kernel
  rw [drawCandidate, ← hshape]
  rfl

theorem drawBase_two (rest : List Byte) (b c : Nat) :
    drawBase 529 ⟨0x00 :: 0x00 :: rest, b, c⟩ = (2, ⟨rest, b + 2, c + 1⟩) := rfl

/-- 529 = 23² passes the sieve, and 2 is a witness against it. -/
theorem primePass_529 (rest : List Byte) (b c : Nat) :
    primePass 10 false ⟨0x02 :: 0x11 :: 0x00 :: 0x00 :: rest, b, c⟩ = (none, ⟨rest, b + 4, c + 2⟩) := by
  have hsieve : sieve 529 = 529 := by decide +kernel
  have hwitness : mrWitness 2 529 = true := by decide +kernel
  have hrounds : millerRabin 529 Config.mrRounds ⟨0x00 :: 0x00 :: rest, b + 2, c + 1⟩ =
      (false, ⟨rest, b + 4, c + 2⟩) := by
    rw [Config.mrRounds, millerRabin, drawBase_two]
    simp only [hwitness, if_true]
  have hlen : ¬ natLen 529 ≠ 10 := by decide +kernel
  rw [primePass]
  simp only [drawCandidate_529, hsieve, if_neg hlen, hrounds, Bool.false_eq_true, if_false]

theorem primeGen_never_ends (h : k ≤ f) (b c : Nat) :
    (primeGen 10 false k ⟨(List.replicate f [0x02, 0x11, 0x00, 0x00]).flatten, b, c⟩).1 = none := by
  induction k generalizing f b c with
  | zero => rfl
  | succ k ih =>
    obtain ⟨f, rfl⟩ := Nat.exists_eq_add_one_of_ne_zero (Nat.ne_zero_of_lt h)
    have hpass := primePass_529 (List.replicate f [0x02, 0x11, 0x00, 0x00]).flatten b c
    rw [List.replicate_succ, List.flatten_cons, primeGen]
    simp only [List.cons_append, List.nil_append, hpass]
    exact ih (Nat.le_of_succ_le_succ h) _ _

/-- Settles O51: a script of one prime, and the script that repeats the composite with its witness. -/
theorem primeGenerationMayEndAndMayHang : Obligations.PrimeGenerationMayEndAndMayHang := by
  refine ⟨fun bits hbits => ?ends, fun f k h => primeGen_never_ends h 0 0⟩
  case ends =>
    obtain ⟨k, rfl⟩ := Nat.exists_eq_add_one_of_ne_zero (show bits ≠ 0 by omega)
    obtain ⟨p, hp, h19, hlow, hhigh⟩ := exists_prime_of_size (show 4 ≤ k by omega)
    have hodd : p % 2 = 1 := Nat.odd_iff.1 (hp.odd_of_ne_two (by omega))
    have hsize : Nat.size p = k + 1 := le_antisymm (Nat.size_le.2 hhigh) (Nat.lt_size.2 hlow)
    obtain ⟨g, hpass⟩ :=
      primePass_of_prime hp h19 (exists_drawCandidate_eq (by omega) hlow hhigh hodd) hsize
    exact ⟨_, p, g, by rw [primeGen, hpass]⟩

end Sys2Proof.Machine
end

section
/-!
A string in octet memory is determined by its value, and stores and loads undo each other (43_octets.md R155);
then O43.
-/

namespace Sys2Proof.Machine

variable {i : Instr} {s t u : State} {ra rd : XReg} {v : Int} {K : FaultKind} {a n : Nat}

/-! ## The bytes of a value -/

theorem beVal_lt (bs : List Byte) : beVal bs < 256 ^ bs.length := by
  induction bs with
  | nil => exact one_pos
  | cons b bs ih =>
    have hb : b.toNat < 256 := b.isLt
    rw [beVal_cons, List.length_cons, pow_succ']
    calc b.toNat * 256 ^ bs.length + beVal bs
      _ < b.toNat * 256 ^ bs.length + 256 ^ bs.length := Nat.add_lt_add_left ih _
      _ = (b.toNat + 1) * 256 ^ bs.length := (Nat.succ_mul _ _).symm
      _ ≤ 256 * 256 ^ bs.length := Nat.mul_le_mul_right _ hb

/-- Two strings of one length with one value are the same string. -/
theorem eq_of_beVal_eq : ∀ {bs cs : List Byte}, bs.length = cs.length → beVal bs = beVal cs → bs = cs
  | [], [], _, _ => rfl
  | b :: bs, c :: cs, hlen, hval => by
    have hlen' : bs.length = cs.length := Nat.succ.inj hlen
    rw [beVal_cons, beVal_cons, hlen', mul_comm, mul_comm c.toNat] at hval
    have hbs : beVal bs < 256 ^ cs.length := hlen' ▸ beVal_lt bs
    have hb : b.toNat = c.toNat := by
      have hdiv := congrArg (· / 256 ^ cs.length) hval
      simpa only [Nat.mul_add_div (Nat.pow_pos (by decide : 0 < 256)), Nat.div_eq_of_lt hbs,
        Nat.div_eq_of_lt (beVal_lt cs), add_zero] using hdiv
    rw [hb] at hval
    rw [BitVec.eq_of_toNat_eq hb, eq_of_beVal_eq hlen' (Nat.add_left_cancel hval)]

theorem bigEndianAt_lt (s : State) (a n : Nat) : bigEndianAt s a n < 256 ^ n := by
  have hlt := beVal_lt (s.octets a n)
  rwa [beVal_octets, State.octets_length] at hlt

/-- The bytes of a string in memory are those of every string there with the same value. -/
theorem omRead_eq_of_bigEndianAt_eq (h : bigEndianAt t a n = bigEndianAt s a n) {j : Nat} (hj : j < n) :
    t.omRead (a + j) = s.omRead (a + j) := by
  have hoctets : t.octets a n = s.octets a n := by
    refine eq_of_beVal_eq ((State.octets_length t n a).trans (State.octets_length s n a).symm) ?_
    rw [beVal_octets, beVal_octets, h]
  rw [← State.octets_getElem t n a j (by rwa [State.octets_length]),
    ← State.octets_getElem s n a j (by rwa [State.octets_length])]
  simp only [hoctets]

theorem omRead_eq_of_sameOutside (hout : SameOutside s t a n)
    (h : bigEndianAt t a n = bigEndianAt s a n) (c : Nat) : t.omRead c = s.omRead c := by
  by_cases hc : c < a ∨ a + n ≤ c
  · exact hout c hc
  · obtain ⟨j, rfl⟩ := Nat.exists_eq_add_of_le (show a ≤ c by omega)
    exact omRead_eq_of_bigEndianAt_eq h (by omega)

/-! ## The commands, when they complete -/

theorem not_faults_of_status (h : exec i s = .next t) (ht : t.status ≠ .error) : ¬ Faults i s K :=
  fun hf => ht (Host.Outcome.next.inj (h.symm.trans hf) ▸ rfl)

theorem exists_source_of_store {i : Instr} (h : exec i s = .next t) (ht : t.status ≠ .error)
    (hunset : s.x.get ra = none → Faults i s .unsetRegister) : ∃ v, s.x.get ra = some v :=
  Option.ne_none_iff_exists'.1 fun hx => not_faults_of_status h ht (hunset hx)

/-- A completed `I2OSP` has stored its source at `PTR`. -/
theorem i2osp_completed (h : exec (.i2osp ra) s = .next t) (ht : t.status ≠ .error) :
    ∃ v, s.x.get ra = some v ∧ s.ptr.toNat + s.len.toNat ≤ s.par.omSize ∧
      t = { s with om := t.om, pc := s.pc + 1 } ∧ bigEndianAt t s.ptr.toNat s.len.toNat = v := by
  obtain ⟨v, hx⟩ := exists_source_of_store h ht fun hx => faults_i2osp_of_unset hx
  obtain ⟨hrange, hbounds, hstore⟩ := (i2ospStoresExactlyLenBytes s ra v).2 hx
  obtain ⟨h0, hv⟩ := not_or.1 fun hbad => not_faults_of_status h ht (hrange hbad)
  rw [not_lt] at h0
  rw [not_le] at hv
  have hin := not_lt.1 fun hout => not_faults_of_status h ht (hbounds h0 hv hout)
  obtain ⟨t', ht', hframe, hval, -⟩ := hstore h0 hv hin
  obtain rfl := Host.Outcome.next.inj (h.symm.trans ht')
  exact ⟨v, hx, hin, hframe, hval⟩

/-- A completed `ENC` has stored its source at `PTR`, with its sign bit clear and its length in `LEN`. -/
theorem enc_completed (hwf : s.par.wf = true) (h : exec (.enc ra) s = .next t) (ht : t.status ≠ .error) :
    ∃ v, s.x.get ra = some v ∧ s.ptr.toNat + t.len.toNat ≤ s.par.omSize ∧
      t = { s with om := t.om, len := t.len, pc := s.pc + 1 } ∧
      bigEndianAt t s.ptr.toNat t.len.toNat = v ∧ (t.omRead s.ptr.toNat).toNat < 128 := by
  obtain ⟨v, hx⟩ := exists_source_of_store h ht fun hx => faults_enc_of_unset hx
  obtain ⟨hneg, hbounds, hstore⟩ := (encStoresTheCanonicalEncoding s ra v hwf).2 hx
  have h0 := not_lt.1 fun hbad => not_faults_of_status h ht (hneg hbad)
  have hin := not_lt.1 fun hout => not_faults_of_status h ht (hbounds h0 hout)
  obtain ⟨t', ht', hframe, hlen, hval, hfirst, -⟩ := hstore h0 hin
  obtain rfl := Host.Outcome.next.inj (h.symm.trans ht')
  exact ⟨v, hx, hlen ▸ hin, hframe, hval, hfirst⟩

/-- A completed `OS2IP` has written the value of the string at `PTR`. -/
theorem os2ip_completed (h : exec (.os2ip rd) s = .next t) (ht : t.status ≠ .error) :
    s.ptr.toNat + s.len.toNat ≤ s.par.omSize ∧
      t = written s rd (bigEndianAt s s.ptr.toNat s.len.toNat) := by
  obtain ⟨hbounds, hload⟩ := loadsReadTheString s rd
  have hin := not_lt.1 fun hout => not_faults_of_status h ht (hbounds hout).1
  obtain ⟨hfit, hbig⟩ := (hload hin).1
  refine ⟨hin, Host.Outcome.next.inj (h.symm.trans (hfit (not_not.1 fun hnot => ?_)))⟩
  exact not_faults_of_status h ht (hbig hnot)

/-- Settles O43, by what each completed command has done. -/
theorem octetRoundTrips : Obligations.OctetRoundTrips := by
  refine fun s t rd ra hrun ht => ⟨fun h => ?storeLoad, fun h => ?loadStore, fun hwf h => ?encode⟩
  case storeLoad =>
    obtain ⟨v, hx, hin, hframe, hval⟩ := i2osp_completed h ht
    refine ⟨v, hx, ?_⟩
    have hload := ((loadsReadTheString t rd).2 (by rw [hframe]; exact hin)).1
    have hptr : t.ptr = s.ptr := by rw [hframe]
    have hlen : t.len = s.len := by rw [hframe]
    rwa [hptr, hlen, hval] at hload
  case loadStore =>
    obtain ⟨hin, rfl⟩ := os2ip_completed h ht
    have hv := bigEndianAt_lt s s.ptr.toNat s.len.toNat
    have hx : (written s rd (bigEndianAt s s.ptr.toNat s.len.toNat)).x.get rd =
        some (bigEndianAt s s.ptr.toNat s.len.toNat : Int) := (get_set s.x rd rd _).trans (if_pos rfl)
    obtain ⟨u, hu, hframe, hval, hout⟩ :=
      ((i2ospStoresExactlyLenBytes _ rd _).2 hx).2.2 (Int.natCast_nonneg _) (mod_cast hv) hin
    refine ⟨u, hu, ?_, omRead_eq_of_sameOutside (s := s) hout (mod_cast hval)⟩
    rw [hframe]
    exact ht
  case encode =>
    obtain ⟨v, hx, hin, hframe, hval, hfirst⟩ := enc_completed hwf h ht
    have hptr : t.ptr = s.ptr := by rw [hframe]
    have hload := (loadsReadTheString t rd).2 (by rw [hptr, hframe]; exact hin)
    rw [hptr, twosComplementAt, if_pos (.inr hfirst), hval] at hload
    exact ⟨v, hx, hload.2, hload.1⟩

end Sys2Proof.Machine
end
